-- ==== Sys2Proof/Word.lean ====
section
/-! DEFINITION. The words of the unit (00_scope.md R7, 44_common_laws.md R123: every integer is unsigned and of one of
these widths) and the exact fraction the conversion formulas are computed in (00_scope.md R11, `Q`). -/

namespace Sys2Proof

/-- ST.CODE, a heater code (R7 HEATER_W, R40). -/
abbrev Nibble := BitVec 4
/-- A register byte, a check byte, CTRL, ST, OPC (R7). -/
abbrev Byte := BitVec 8
/-- A measurement value or raw count (R7 VALUE_W). -/
abbrev Half := BitVec 16
/-- The CRC working row and the shifting divisor (R7 ROW_W). -/
abbrev Row := BitVec 24
/-- A request word REQ or a result R (R7 REQ_W, R_W). -/
abbrev Word := BitVec 32

/-- A rational number `num / den`, kept as the two integers and not reduced, so that the arithmetic of Q (R11) is integer
arithmetic with no width and no wrap (44_common_laws.md R123). `den` is positive wherever the model builds one.
DESIGN CHOICE, safe: log entry 7. -/
structure Frac where
  num : Int
  den : Nat
  deriving DecidableEq, Repr

end Sys2Proof
end

