-- ==== Sys2Proof/Config.lean ====
section
/-! DEFINITION. The two open parameters of 00_scope.md R9, as plain data; R9 and 93_implementation_defined.md part 3 list no
other. The spec leaves no value undefined (60_exceptions.md R96), so there is no free value here. -/

namespace Sys2Proof

/-- TEMP_NUMERIC_MODE (R9): how the temperature result is rounded into 32 bits. -/
inductive TempNumericMode where
  /-- `exact_rne32`, the default: the exact value rounded once (42_conversion.md R82). -/
  | exactRne32
  /-- `f32_stepwise`: every literal and intermediate in binary32 (R83). -/
  | f32Stepwise
  deriving DecidableEq, Repr

/-- The parameters a model takes as an argument (R9). The machine carries them in its state, where no step changes them:
DESIGN CHOICE, safe, log entry 3. -/
structure Config where
  tempNumericMode : TempNumericMode
  /-- STRICT_AT_RESET: the reset value of CTRL.STRICT. -/
  strictAtReset : Bool
  deriving DecidableEq, Repr

/-- The defaults of R9: `exact_rne32` and STRICT_AT_RESET = 0. -/
def Config.default : Config := { tempNumericMode := .exactRne32, strictAtReset := false }

end Sys2Proof
end

