-- ==== Sys2Proof/Machine/Binary32.lean ====
section
/-! DEFINITION. Arithmetic in Q on integer fractions (00_scope.md R11) and the IEEE 754 binary32 encoding (42_conversion.md R81,
30_encoding.md R55). -/

namespace Sys2Proof
namespace Machine

/-- An integer as a fraction. -/
def fracOfInt (n : Int) : Frac := { num := n, den := 1 }

/-- Product. -/
def fracMul (a b : Frac) : Frac := { num := a.num * b.num, den := a.den * b.den }

/-- Quotient by a positive integer. -/
def fracDivNat (a : Frac) (k : Nat) : Frac := { num := a.num, den := a.den * k }

/-- Difference. -/
def fracSub (a b : Frac) : Frac := { num := a.num * b.den - b.num * a.den, den := a.den * b.den }

/-- Whether 2^k ≤ n / d, with the power on whichever side keeps it an integer. -/
def powLe (k : Int) (n d : Nat) : Bool := decide (d * 2 ^ k.toNat ≤ n * 2 ^ (-k).toNat)

/-- The integer e with 2^e ≤ n / d < 2^(e+1), for positive n and d (R81). It is the difference of the two logarithms or one
less. -/
def floorExp (n d : Nat) : Int :=
  let k : Int := (Nat.log2 n : Int) - (Nat.log2 d : Int)
  if powLe k n d then k else k - 1

/-- n / d rounded to the nearest integer, ties to even (R81: n, f, and `n <- n + 1`). -/
def roundTiesEven (n d : Nat) : Nat :=
  let q := n / d
  let f := n % d
  if d < 2 * f ∨ (2 * f = d ∧ q % 2 = 1) then q + 1 else q

/-- The rounded significand a / 2^(e-23) of a = n / d (R81: m, then n). -/
def significand (n d : Nat) (e : Int) : Nat := roundTiesEven (n * 2 ^ (23 - e).toNat) (d * 2 ^ (e - 23).toNat)

/-- The pattern {s, (e + 127)[7:0], (n - 2^23)[22:0]} (R81, R55). -/
def packBinary32 (neg : Bool) (e : Int) (n : Nat) : Word :=
  BitVec.ofBool neg ++ BitVec.ofInt 8 (e + 127) ++ BitVec.ofNat 23 (n - 2 ^ 23)

/-- `rne32(q)`: the rational q rounded to binary32, nearest, ties to even (R81). R81 gives it for q = 0 and for
2^-126 ≤ |q| < 2^128; no operation asks for another (R89; log entry 6). -/
def rne32 (q : Frac) : Word :=
  let neg := decide (q.num < 0)
  let a := q.num.natAbs
  if a = 0 then 0x00000000
  else
    let e := floorExp a q.den
    let n := significand a q.den e
    if n = 2 ^ 24 then packBinary32 neg (e + 1) (2 ^ 23) else packBinary32 neg e n

/-- The sign, exponent and fraction fields of a pattern (R55). -/
def signOf (w : Word) : Bool := w.getLsbD 31
def exponentOf (w : Word) : Nat := (w.extractLsb' 23 8).toNat
def fractionOf (w : Word) : Nat := (w.extractLsb' 0 23).toNat

/-- The magnitude a pattern stands for: (2^23 + F) * 2^(E - 150) for E ≥ 1 (R81). The pattern of zero stands for 0, which the
stepwise mode needs at raw 0 (95_test_vectors.md S4 and part 4), and a pattern with E = 0 and F ≠ 0, which no operation makes,
for F * 2^-149: log entry 6. -/
def magnitudeOf (w : Word) : Nat × Nat :=
  if exponentOf w = 0 then (fractionOf w, 2 ^ 149)
  else ((2 ^ 23 + fractionOf w) * 2 ^ (exponentOf w - 150), 2 ^ (150 - exponentOf w))

/-- `f32(bits)`: the rational a finite pattern stands for (R11, R81). -/
def f32 (w : Word) : Frac :=
  let m := magnitudeOf w
  { num := if signOf w then -(m.1 : Int) else m.1, den := m.2 }

end Machine
end Sys2Proof
end

