-- ==== Sys2Proof/Machine/Convert.lean ====
section
/-! DEFINITION. The two conversion formulas and their 32-bit results (42_conversion.md sections 1 and 2). -/

namespace Sys2Proof
namespace Machine

/-- T_SCALE = 175.72 and T_OFFSET = 46.85, exact decimals (00_scope.md R8, R80). -/
def tScale : Frac := { num := 17572, den := 100 }
def tOffset : Frac := { num := 4685, den := 100 }

/-- H_SCALE = 125 and H_OFFSET = 6 (R8). -/
def hScale : Frac := { num := 125, den := 1 }
def hOffset : Frac := { num := 6, den := 1 }

/-- COUNT_SPAN (R8). -/
def countSpan : Nat := 65536

/-- A raw count, unsigned (R80). -/
def fracOfRaw (raw : Half) : Frac := fracOfInt raw.toNat

/-- `Texact(raw) = raw * (17572/100) / 65536 - 4685/100`, in Q (R80). -/
def texact (raw : Half) : Frac := fracSub (fracDivNat (fracMul (fracOfRaw raw) tScale) countSpan) tOffset

/-- `Hexact(raw) = 125 * raw / 65536 - 6`, in Q (R80). -/
def hexact (raw : Half) : Frac := fracSub (fracDivNat (fracMul hScale (fracOfRaw raw)) countSpan) hOffset

/-- The literals of the stepwise mode, each in binary32: c1 near 175.72, c2 near 46.85 (R83). -/
def c1Bits : Word := 0x432FB852
def c2Bits : Word := 0x423B6666

/-- The stepwise result: the product rounded, the division exact, the difference rounded (R83). -/
def tempStepwise (raw : Half) : Word :=
  let p := f32 (rne32 (fracMul (fracOfRaw raw) (f32 c1Bits)))
  let q := fracDivNat p countSpan
  rne32 (fracSub q (f32 c2Bits))

/-- `temp32(raw)` in either mode (R82, R83, R85). -/
def temp32 (mode : TempNumericMode) (raw : Half) : Word :=
  match mode with
  | .exactRne32 => rne32 (texact raw)
  | .f32Stepwise => tempStepwise raw

/-- The humidity result, the same in both modes (R84). -/
def hum32 (raw : Half) : Word := rne32 (hexact raw)

end Machine
end Sys2Proof
end

