-- ==== Sys2Proof/Syntax.lean ====
section
/-! DEFINITION. The 16 operations (30_encoding.md R42), one constructor per row of spec/opcode_table.json, each with the
operands its own rule names, in the order of the assembler form (R47). A field an operation does not read (R39) is no operand. -/

namespace Sys2Proof

inductive Instr where
  /-- 0x00, read CTRL (43_system.md R90). -/
  | rdctl
  /-- 0x01, write CTRL; only data[0] is used (R91). -/
  | wrctl (data : Byte)
  /-- 0x10, validate a reading (40_crc.md R63). -/
  | crcv (value : Half) (crc : Byte)
  /-- 0x11, clear the status bits (R64). -/
  | mask (value : Half)
  /-- 0x12, check a reading under the policy and return the masked value (R65). -/
  | chk (value : Half) (crc : Byte)
  /-- 0x20, decode the resolution (41_regcodec.md R70). -/
  | gres (reg : Byte)
  /-- 0x21, merge a resolution code; only code[7] and code[0] are used (R71). -/
  | sres (reg code : Byte)
  /-- 0x22, decode the heater enable (R72). -/
  | ghtr (reg : Byte)
  /-- 0x23, merge the heater enable, A[0] (R73). -/
  | shtr (reg : Byte) (en : BitVec 1)
  /-- 0x24, decode the VDD status (R75). -/
  | gvdd (reg : Byte)
  /-- 0x25, decode the heater register as read (R76). -/
  | hdec (byte : Byte)
  /-- 0x26, encode a heater value for writing (R77). -/
  | henc (value : Byte)
  /-- 0x30, convert a raw count to temperature (42_conversion.md R85). -/
  | cvt (raw : Half)
  /-- 0x31, convert a raw count to relative humidity (R86). -/
  | cvh (raw : Half)
  /-- 0x32, process a temperature reading (R87). -/
  | meat (value : Half) (crc : Byte)
  /-- 0x33, process a humidity reading (R88). -/
  | meah (value : Half) (crc : Byte)
  deriving DecidableEq, Repr

/-- The pseudo-operation `STRICT.ON` (30_encoding.md R48). -/
def Instr.strictOn : Instr := .wrctl 0x01

/-- The pseudo-operation `STRICT.OFF` (R48). -/
def Instr.strictOff : Instr := .wrctl 0x00

end Sys2Proof
end

