-- ==== Sys2Proof/WellFormed.lean ====
section
/-! DEFINITION. What may be refused before anything runs: a reserved operation code (30_encoding.md R44) and an assembler line
that does not have the form of R47. A decoded operation is never ill formed: no operand value is illegal (R45, 60_exceptions.md
R94), and the operands' types hold exactly the values their fields hold. -/

namespace Sys2Proof

/-- The reserved operation codes, by the ranges R44 lists. -/
def reservedOpc (opc : Byte) : Bool :=
  (0x02#8 ≤ opc && opc ≤ 0x0F#8) || (0x13#8 ≤ opc && opc ≤ 0x1F#8) || (0x27#8 ≤ opc && opc ≤ 0x2F#8) ||
    (0x34#8 ≤ opc && opc ≤ 0x3F#8) || 0x40#8 ≤ opc

/-- Every operation with every operand value is legal (R45; R94: "no operand value of any defined operation is illegal").
DEDUCED, safe: log entry 8. -/
def Instr.wellFormed : Instr → Bool
  | .rdctl => true
  | .wrctl _ => true
  | .crcv _ _ => true
  | .mask _ => true
  | .chk _ _ => true
  | .gres _ => true
  | .sres _ _ => true
  | .ghtr _ => true
  | .shtr _ _ => true
  | .gvdd _ => true
  | .hdec _ => true
  | .henc _ => true
  | .cvt _ => true
  | .cvh _ => true
  | .meat _ _ => true
  | .meah _ _ => true

/-- The words of the assembler form (R47), the two pseudo-operations (R48) and `.word`. -/
inductive Mnemonic where
  | rdctl | wrctl | crcv | mask | chk | gres | sres | ghtr | shtr | gvdd | hdec | henc | cvt | cvh | meat | meah
  /-- `STRICT.ON`. -/
  | strictOn
  /-- `STRICT.OFF`. -/
  | strictOff
  /-- `.word 0x........`, how a request with a reserved code is written. -/
  | dotWord
  deriving DecidableEq, Repr

/-- A line of the assembler form: `MNEMONIC operand, operand`, each operand a literal (R47). -/
structure AsmLine where
  mnemonic : Mnemonic
  operands : List Nat
  deriving DecidableEq, Repr

/-- The widths of the operands, in the order of R47's table. -/
def Mnemonic.widths : Mnemonic → List Nat
  | .rdctl => []
  | .wrctl => [8]
  | .crcv => [16, 8]
  | .mask => [16]
  | .chk => [16, 8]
  | .gres => [8]
  | .sres => [8, 8]
  | .ghtr => [8]
  | .shtr => [8, 1]
  | .gvdd => [8]
  | .hdec => [8]
  | .henc => [8]
  | .cvt => [16]
  | .cvh => [16]
  | .meat => [16, 8]
  | .meah => [16, 8]
  | .strictOn => []
  | .strictOff => []
  | .dotWord => [32]

/-- Each literal fits the field it is written to. -/
def literalsFit : List Nat → List Nat → Bool
  | [], [] => true
  | w :: ws, v :: vs => decide (v < 2 ^ w) && literalsFit ws vs
  | [], _ :: _ => false
  | _ :: _, [] => false

/-- A line is well formed when it gives each operand of its operation once and each literal fits its field.
DESIGN CHOICE, safe: R47 does not say what a literal too large for its field means, so the line is refused; log entry 8. -/
def AsmLine.wellFormed (l : AsmLine) : Bool := literalsFit l.mnemonic.widths l.operands

/-- The bits of REQ the assembler form of an operation code sets (R47, and the `Encoding` line of each operation's rule); it
assembles every other bit as zero. -/
def syntaxMask (opc : Byte) : Word :=
  if opc = 0x00 then 0xFF000000
  else if opc = 0x01 then 0xFF0000FF
  else if opc = 0x11 ∨ opc = 0x30 ∨ opc = 0x31 then 0xFFFFFF00
  else if opc = 0x21 then 0xFF00FFFF
  else if opc = 0x23 then 0xFF0001FF
  else if opc = 0x20 ∨ opc = 0x22 ∨ opc = 0x24 ∨ opc = 0x25 ∨ opc = 0x26 then 0xFF0000FF
  else 0xFFFFFFFF

/-- The bits of REQ an operation reads: the table of R39, row by row. For a reserved code only OPC is looked at (R97). -/
def readMask (opc : Byte) : Word :=
  if opc = 0x00 then 0xFF000000
  else if opc = 0x01 then 0xFF000001
  else if opc = 0x11 ∨ opc = 0x30 ∨ opc = 0x31 then 0xFFFFFF00
  else if opc = 0x10 ∨ opc = 0x12 ∨ opc = 0x32 ∨ opc = 0x33 then 0xFFFFFFFF
  else if opc = 0x21 then 0xFF0081FF
  else if opc = 0x23 then 0xFF0001FF
  else if opc = 0x20 ∨ opc = 0x22 ∨ opc = 0x24 ∨ opc = 0x25 ∨ opc = 0x26 then 0xFF0000FF
  else 0xFF000000

/-- The operation code of a request word, REQ[31:24] (R38). -/
def opcOf (req : Word) : Byte := req.extractLsb' 24 8

/-- A request word as an assembler writes it: zero in every field the syntax does not set (R47). A word that is not
canonical is as legal as one that is (R45). -/
def canonicalWord (req : Word) : Bool := !reservedOpc (opcOf req) && (req &&& ~~~(syntaxMask (opcOf req)) == 0)

end Sys2Proof
end

