-- ==== Sys2Proof/Decode.lean ====
section
/-! DEFINITION. From a request word to an operation and back (30_encoding.md R37 to R48). The decoder is total: a word whose
operation code is reserved is rejected under the name `reservedOpc`; every other word is an operation (R45). -/

namespace Sys2Proof

/-- Why a request word is no operation. Safe: the step answers it as R44 says. -/
inductive DecodeError where
  /-- REQ[31:24] is not one of the 16 operation codes (R44). -/
  | reservedOpc (opc : Byte)
  deriving DecidableEq, Repr

/-- REQ.A, REQ[23:8] (R38). -/
def fieldA (req : Word) : Half := req.extractLsb' 8 16

/-- REQ.AL, REQ[15:8], the low byte of A (R38). -/
def fieldAL (req : Word) : Byte := req.extractLsb' 8 8

/-- A[0], REQ[8] (R39, SHTR). -/
def fieldA0 (req : Word) : BitVec 1 := req.extractLsb' 8 1

/-- REQ.B, REQ[7:0] (R38). -/
def fieldB (req : Word) : Byte := req.extractLsb' 0 8

/-- A row of the operation map (R42): a request selects the row when `REQ & mask == pattern`. -/
structure OpRow where
  mnemonic : String
  pattern : Word
  mask : Word
  build : Word → Instr

/-- Whether a request selects the row (R42). -/
def rowSelects (req : Word) (row : OpRow) : Bool := req &&& row.mask == row.pattern

/-- The SYS and CRC rows of R42. -/
def sysCrcRows : List OpRow :=
  [ ⟨"RDCTL", 0x00000000, 0xFF000000, fun _ => .rdctl⟩,
    ⟨"WRCTL", 0x01000000, 0xFF000000, fun r => .wrctl (fieldB r)⟩,
    ⟨"CRCV", 0x10000000, 0xFF000000, fun r => .crcv (fieldA r) (fieldB r)⟩,
    ⟨"MASK", 0x11000000, 0xFF000000, fun r => .mask (fieldA r)⟩,
    ⟨"CHK", 0x12000000, 0xFF000000, fun r => .chk (fieldA r) (fieldB r)⟩ ]

/-- The REG rows of R42. -/
def regRows : List OpRow :=
  [ ⟨"GRES", 0x20000000, 0xFF000000, fun r => .gres (fieldB r)⟩,
    ⟨"SRES", 0x21000000, 0xFF000000, fun r => .sres (fieldB r) (fieldAL r)⟩,
    ⟨"GHTR", 0x22000000, 0xFF000000, fun r => .ghtr (fieldB r)⟩,
    ⟨"SHTR", 0x23000000, 0xFF000000, fun r => .shtr (fieldB r) (fieldA0 r)⟩,
    ⟨"GVDD", 0x24000000, 0xFF000000, fun r => .gvdd (fieldB r)⟩,
    ⟨"HDEC", 0x25000000, 0xFF000000, fun r => .hdec (fieldB r)⟩,
    ⟨"HENC", 0x26000000, 0xFF000000, fun r => .henc (fieldB r)⟩ ]

/-- The CNV rows of R42. -/
def cnvRows : List OpRow :=
  [ ⟨"CVT", 0x30000000, 0xFF000000, fun r => .cvt (fieldA r)⟩,
    ⟨"CVH", 0x31000000, 0xFF000000, fun r => .cvh (fieldA r)⟩,
    ⟨"MEAT", 0x32000000, 0xFF000000, fun r => .meat (fieldA r) (fieldB r)⟩,
    ⟨"MEAH", 0x33000000, 0xFF000000, fun r => .meah (fieldA r) (fieldB r)⟩ ]

/-- The operation map of R42. -/
def operationMap : List OpRow := sysCrcRows ++ regRows ++ cnvRows

/-- The operation a request word stands for, or its rejection by name (R42, R44). -/
def decode (req : Word) : Except DecodeError Instr :=
  match operationMap.find? (rowSelects req) with
  | some row => .ok (row.build req)
  | none => .error (.reservedOpc (opcOf req))

/-- REQ from its three fields (R38). -/
def reqWord (opc : Byte) (a : Half) (b : Byte) : Word := opc ++ a ++ b

/-- A from its high byte and AL (R38). -/
def halfOf (hi lo : Byte) : Half := hi ++ lo

/-- A from A[15:1] and A[0] (R73). -/
def halfOfBit (hi : BitVec 15) (lo : BitVec 1) : Half := hi ++ lo

/-- The request word of an operation, by the `Encoding` line of its rule; every field it does not set is zero (R47). -/
def encode : Instr → Word
  | .rdctl => reqWord 0x00 0x0000 0x00
  | .wrctl data => reqWord 0x01 0x0000 data
  | .crcv value crc => reqWord 0x10 value crc
  | .mask value => reqWord 0x11 value 0x00
  | .chk value crc => reqWord 0x12 value crc
  | .gres reg => reqWord 0x20 0x0000 reg
  | .sres reg code => reqWord 0x21 (halfOf 0x00 code) reg
  | .ghtr reg => reqWord 0x22 0x0000 reg
  | .shtr reg en => reqWord 0x23 (halfOfBit 0 en) reg
  | .gvdd reg => reqWord 0x24 0x0000 reg
  | .hdec byte => reqWord 0x25 0x0000 byte
  | .henc value => reqWord 0x26 0x0000 value
  | .cvt raw => reqWord 0x30 raw 0x00
  | .cvh raw => reqWord 0x31 raw 0x00
  | .meat value crc => reqWord 0x32 value crc
  | .meah value crc => reqWord 0x33 value crc

/-- The operation an assembler line names (R47, R48); none where its operands are not those of the mnemonic. -/
def AsmLine.instr (l : AsmLine) : Option Instr :=
  match l.mnemonic, l.operands with
  | .rdctl, [] => some .rdctl
  | .wrctl, [data] => some (.wrctl (.ofNat 8 data))
  | .crcv, [value, crc] => some (.crcv (.ofNat 16 value) (.ofNat 8 crc))
  | .mask, [value] => some (.mask (.ofNat 16 value))
  | .chk, [value, crc] => some (.chk (.ofNat 16 value) (.ofNat 8 crc))
  | .gres, [reg] => some (.gres (.ofNat 8 reg))
  | .sres, [reg, code] => some (.sres (.ofNat 8 reg) (.ofNat 8 code))
  | .ghtr, [reg] => some (.ghtr (.ofNat 8 reg))
  | .shtr, [reg, en] => some (.shtr (.ofNat 8 reg) (.ofNat 1 en))
  | .gvdd, [reg] => some (.gvdd (.ofNat 8 reg))
  | .hdec, [byte] => some (.hdec (.ofNat 8 byte))
  | .henc, [value] => some (.henc (.ofNat 8 value))
  | .cvt, [raw] => some (.cvt (.ofNat 16 raw))
  | .cvh, [raw] => some (.cvh (.ofNat 16 raw))
  | .meat, [value, crc] => some (.meat (.ofNat 16 value) (.ofNat 8 crc))
  | .meah, [value, crc] => some (.meah (.ofNat 16 value) (.ofNat 8 crc))
  | .strictOn, [] => some .strictOn
  | .strictOff, [] => some .strictOff
  | _, _ => none

/-- The request word of an assembler line (R47, R48), `.word` included. -/
def assemble (l : AsmLine) : Option Word :=
  if l.wellFormed then
    match l.mnemonic, l.operands with
    | .dotWord, [w] => some (BitVec.ofNat 32 w)
    | _, _ => l.instr.map encode
  else none

/-- What the decoder reads from a table row's bits: `w` is the request word itself, one 32-bit word whose bit 0 is the least
significant (R10, R37); the bits from `nbits` up are zero. -/
def decodeTableWord (nbits w : Nat) : Option Instr :=
  match decode (BitVec.ofNat 32 (w % 2 ^ nbits)) with
  | .ok i => some i
  | .error _ => none

end Sys2Proof
end

