-- ==== Sys2Proof/Machine/Check.lean ====
section
/-! DEFINITION. The CRC functions (40_crc.md section 1) and the status-bit mask (R64). -/

namespace Sys2Proof
namespace Machine

/-- CRC_DIVISOR: x^8+x^5+x^4+1 padded for the row width, 0x131 shifted left by 15 (00_scope.md R8). -/
def crcDivisor : Row := 0x988000

/-- CRC_PASSES (R8): i = 0 to 15, `0..16` read as half-open (R59; 90_conflicts.md C5; log entry 10). -/
def crcPasses : Nat := 16

/-- Pass i of the reduction, on the row and the divisor as earlier passes left them (R59). -/
def remPass (rd : Row × Row) (i : Nat) : Row × Row :=
  (if rd.1.getLsbD (23 - i) then rd.1 ^^^ rd.2 else rd.1, rd.2 >>> 1)

/-- `rem24`, the reduction, by the loop the source fixes (R59, R68). -/
def rem24 (row : Row) : Row := ((List.range crcPasses).foldl remPass (row, crcDivisor)).1

/-- The row {value, crc} (R49, 20_memory.md R27). -/
def rowOf (value : Half) (crc : Byte) : Row := value ++ crc

/-- `validate`: the final row is zero, all 24 bits of it (R60). -/
def validate (value : Half) (crc : Byte) : Bool := rem24 (rowOf value crc) == 0

/-- `crc8`, the check byte of a value (R61). Not an operation. -/
def crc8 (value : Half) : Byte := (rem24 (rowOf value 0x00)).extractLsb' 0 8

/-- One bit of the serial form (R62 (h)). -/
def crcBit (c : Byte) : Byte := if c.getLsbD 7 then (c <<< 1) ^^^ 0x31 else c <<< 1

/-- One byte of the serial form: XOR it in, then eight bits (R62 (h)). -/
def crcByte (c byte : Byte) : Byte := Nat.repeat crcBit 8 (c ^^^ byte)

/-- `crc8_serial`, the shift-register form (R62 (h)). -/
def crc8Serial (value : Half) : Byte := crcByte (crcByte 0x00 (value.extractLsb' 8 8)) (value.extractLsb' 0 8)

/-- STATUS_MASK (R8). -/
def statusMask : Half := 0xFFFC

/-- A value with its two status bits cleared (R50, R64). -/
def maskValue (value : Half) : Half := value &&& statusMask

end Machine
end Sys2Proof
end

