-- ==== Sys2Proof/Machine/State.lean ====
section
/-! DEFINITION. The state of the unit (10_state.md R13, R17): CTRL, and nothing else that an operation reads or writes but the
parameters of 00_scope.md R9. Beside it stand the two ends of the interface (20_memory.md R26): what the host has presented and
what has been answered. -/

namespace Sys2Proof
namespace Machine

/-- The status codes (30_encoding.md R41), the source's ErrorCode with Ok first. -/
inductive ErrorCode where
  | ok | configError | installError | notFoundError | invalidArgument | busFailure | invalidState | timeoutError
  | checksumMismatch
  deriving DecidableEq, Repr

/-- A response (R40). -/
structure Response where
  st : Byte
  r : Word
  deriving DecidableEq, Repr

/-- What the host does to the unit between transactions. -/
inductive HostEvent where
  /-- Present a request word (R26). -/
  | request (req : Word)
  /-- Apply the reset event (70_reset_and_hazards.md R109). -/
  | reset
  deriving DecidableEq, Repr

/-- The state.
* `config`: the parameters (R9); no step changes them. DESIGN CHOICE, safe: log entry 3.
* `ctrl`: CTRL (R17). Read and written through readCtrl and writeCtrl only, which hold bits 7:1 at zero: log entry 4.
* `inbox`: what the host presents, oldest first, in the order of presentation (R15, R34). DESIGN CHOICE, safe: log entry 1.
* `outbox`: the responses delivered, oldest first, the observable outcome of a run (R122). No operation reads it, and it is
  not state of the unit (R23). DESIGN CHOICE, safe: log entry 2. -/
structure State where
  config : Config
  ctrl : Byte
  inbox : List HostEvent
  outbox : List Response
  deriving DecidableEq, Repr

/-- Why the unit stops: never. It has no fault (60_exceptions.md R96: "every request in every state has a response"), so there
is no constructor; an error response is a next state (R93). DEDUCED, safe: log entry 9. -/
inductive Fault where
  deriving DecidableEq, Repr

/-- Why an operation has no meaning. -/
inductive Refusal where
  /-- Raised by an arm of exec whose operation has no meaning yet: no arm today. Safe. -/
  | notModelled (mnemonic : String)
  deriving DecidableEq, Repr

/-- The outcome of a step or of an operation. -/
abbrev Result := Host.Outcome State Fault Refusal

/-- The value of CTRL after reset: bit 0 is STRICT_AT_RESET, bits 7:1 are zero (R24, R109, R110). -/
def ctrlAtReset (c : Config) : Byte := if c.strictAtReset then 0x01 else 0x00

/-- The machine after reset under given parameters (R24, R109), with nothing presented and nothing answered (log entries 1, 2). -/
def State.resetWith (c : Config) : State := { config := c, ctrl := ctrlAtReset c, inbox := [], outbox := [] }

/-- The machine after reset: CTRL = 0x00, soft-fail, with the default parameters (R9, R24). -/
def State.reset : State := State.resetWith Config.default

end Machine
end Sys2Proof
end

