-- ==== Sys2Proof/Machine/Flags.lean ====
section
/-! DEFINITION. The status field of a response and the one flag, CRCF (30_encoding.md R40, R41; 10_state.md R16). -/

namespace Sys2Proof
namespace Machine

/-- The number of a status code (R41). -/
def codeNumber : ErrorCode → Nibble
  | .ok => 0
  | .configError => 1
  | .installError => 2
  | .notFoundError => 3
  | .invalidArgument => 4
  | .busFailure => 5
  | .invalidState => 6
  | .timeoutError => 7
  | .checksumMismatch => 8

/-- CRCF from the verdict of `validate`: set exactly when it is false (R16). -/
def crcFlag (verdict : Bool) : Bool := !verdict

/-- ST = {0b000, crcf, code} (R40). -/
def statusByte (code : ErrorCode) (crcf : Bool) : Byte := 0b000#3 ++ BitVec.ofBool crcf ++ codeNumber code

/-- ST.CODE = ST[3:0] (R40). -/
def stCode (st : Byte) : Nibble := st.extractLsb' 0 4

/-- ST.CRCF = ST[4] (R40). -/
def stCrcf (st : Byte) : Bool := st.getLsbD 4

end Machine
end Sys2Proof
end

