-- ==== Sys2Proof/Machine/Operands.lean ====
section
/-! DEFINITION. How a result goes into R (30_encoding.md R43): every integer result zero-extended, a Boolean in R[0]. The
operands themselves are the plain unsigned values of their fields, which the decoder takes out (R43). -/

namespace Sys2Proof
namespace Machine

/-- An 8-bit result in R[7:0] (R43). -/
def resultByte (v : Byte) : Word := v.setWidth 32

/-- A 16-bit result in R[15:0] (R43). -/
def resultHalf (v : Half) : Word := v.setWidth 32

/-- A one-bit result in R[0] (R43). -/
def resultBit (v : BitVec 1) : Word := v.setWidth 32

/-- A Boolean result in R[0], true is 1 (R43). -/
def resultBool (v : Bool) : Word := resultBit (BitVec.ofBool v)

end Machine
end Sys2Proof
end

