-- ==== Sys2Proof/Machine/Ops.lean ====
section
/-! DEFINITION. The shared operations on the state: reading and writing CTRL, delivering a response, the error response (the
unit's only form of exception), the reset event, and taking what the host presents. The unit has no memory (20_memory.md R25). -/

namespace Sys2Proof
namespace Machine

/-- The implemented bits of CTRL: bit 0 (10_state.md R17). -/
def ctrlImplemented : Byte := 0x01

/-- A read of CTRL: bits 7:1 read as zero (R17; log entry 4). -/
def readCtrl (s : State) : Byte := s.ctrl &&& ctrlImplemented

/-- CTRL[0], STRICT (R17). -/
def strict (s : State) : Bool := (readCtrl s).getLsbD 0

/-- `CTRL <- v`: a write's data for bits 7:1 is ignored (R17; log entry 4). -/
def writeCtrl (v : Byte) (s : State) : State := { s with ctrl := v &&& ctrlImplemented }

/-- Deliver a response on the response port (20_memory.md R26). -/
def deliver (resp : Response) (s : State) : State := { s with outbox := s.outbox ++ [resp] }

/-- `respond(code, crcf, r)` (30_encoding.md R40, 00_scope.md R11). -/
def respond (code : ErrorCode) (crcf : Bool) (r : Word) (s : State) : State :=
  deliver { st := statusByte code crcf, r := r } s

/-- `raise Code(crcf)`, taking an exception: ST = {0b000, crcf, Code}, R = 0 and no state written; nothing is saved and
control goes nowhere (60_exceptions.md R93). There is no return from it (R99). -/
def raiseError (code : ErrorCode) (crcf : Bool) (s : State) : State := respond code crcf 0x00000000 s

/-- Process a reading: validate the unmasked value, then mask, then convert (40_crc.md R65, R67; 42_conversion.md R87, R88).
A false verdict in strict mode ends it with ChecksumMismatch; in soft-fail mode it is flagged only (60_exceptions.md R95). -/
def processReading (value : Half) (crc : Byte) (convert : Half → Word) (s : State) : State :=
  let ok := validate value crc
  if !ok && strict s then raiseError .checksumMismatch (crcFlag ok) s
  else respond .ok (crcFlag ok) (convert (maskValue value)) s

/-- The answer to a request that is no operation (30_encoding.md R44, 60_exceptions.md R94). -/
def answerUndecodable (e : DecodeError) (s : State) : State :=
  match e with
  | .reservedOpc _ => raiseError .invalidArgument false s

/-- The reset event: CTRL <- 0x00, or CTRL[0] <- STRICT_AT_RESET, and nothing else (70_reset_and_hazards.md R109). -/
def applyReset (s : State) : State := { s with ctrl := ctrlAtReset s.config }

/-- Take the next thing the host presents, if there is any (20_memory.md R34). -/
def takeEvent (s : State) : Option (HostEvent × State) :=
  match s.inbox with
  | [] => none
  | ev :: rest => some (ev, { s with inbox := rest })

/-- What the unit does when nothing is presented: nothing (60_exceptions.md R98; 70_reset_and_hazards.md R122). -/
def idle (s : State) : State := s

end Machine
end Sys2Proof
end

