-- ==== Sys2Proof/Machine/Cnv.lean ====
section
/-! DEFINITION. The CNV family (42_conversion.md). -/

namespace Sys2Proof
namespace Machine

/-- CVT (R85): no validation, no masking, no clamping. -/
def execCvt (raw : Half) (s : State) : Result :=
  .next (respond .ok false (temp32 s.config.tempNumericMode raw) s)

/-- CVH (R86). -/
def execCvh (raw : Half) (s : State) : Result := .next (respond .ok false (hum32 raw) s)

/-- MEAT (R87). -/
def execMeat (value : Half) (crc : Byte) (s : State) : Result :=
  .next (processReading value crc (temp32 s.config.tempNumericMode) s)

/-- MEAH (R88). -/
def execMeah (value : Half) (crc : Byte) (s : State) : Result := .next (processReading value crc hum32 s)

end Machine
end Sys2Proof
end

