-- ==== Sys2Proof/Machine/Crc.lean ====
section
/-! DEFINITION. The CRC family (40_crc.md). -/

namespace Sys2Proof
namespace Machine

/-- CRCV (R63): the bare verdict, in both modes. -/
def execCrcv (value : Half) (crc : Byte) (s : State) : Result :=
  let ok := validate value crc
  .next (respond .ok (crcFlag ok) (resultBool ok) s)

/-- MASK (R64). -/
def execMask (value : Half) (s : State) : Result := .next (respond .ok false (resultHalf (maskValue value)) s)

/-- CHK (R65): the masked value, under the policy. -/
def execChk (value : Half) (crc : Byte) (s : State) : Result := .next (processReading value crc resultHalf s)

end Machine
end Sys2Proof
end

