-- ==== Sys2Proof/Machine/Codec.lean ====
section
/-! DEFINITION. The bit fields of the sensor's two registers (30_encoding.md R51 to R54) and the pure functions on them
(41_regcodec.md R70 to R78). -/

namespace Sys2Proof
namespace Machine

/-- RES_MASK: user register bits 7 and 0, the resolution field (00_scope.md R8). -/
def resMask : Byte := 0x81

/-- HTRE_MASK: user register bit 2, heater enable (R8). -/
def htreMask : Byte := 0x04

/-- The bit position of HTRE (R51). -/
def htreBit : Nat := 2

/-- The bit position of VDDS (R51); VDDS_MASK = 0x40 of R8 is this bit alone. -/
def vddsBit : Nat := 6

/-- HEATER_MASK: the low nibble of the heater register (R8). -/
def heaterMask : Byte := 0x0F

/-- The four resolution modes, by the source's labels, which no operation reads (R52). -/
inductive ResolutionMode where
  | bits12and14 | bits8and12 | bits10and13 | bits11and11
  deriving DecidableEq, Repr

/-- The code of a resolution mode: the register's own bits 7 and 0 in place (R52). -/
def resolutionCode : ResolutionMode → Byte
  | .bits12and14 => 0x00
  | .bits8and12 => 0x01
  | .bits10and13 => 0x80
  | .bits11and11 => 0x81

/-- `gres(b) = b & 0x81` (R70, R74). -/
def gresOf (reg : Byte) : Byte := reg &&& resMask

/-- `sres(b, c) = (b & 0x7E) | (c & 0x81)` (R71, R74); code bits 6:1 are dropped, not rejected: log entry 11. -/
def sresOf (reg code : Byte) : Byte := (reg &&& ~~~resMask) ||| (code &&& resMask)

/-- `ghtr(b) = b[2]` (R72, R74). -/
def ghtrOf (reg : Byte) : BitVec 1 := reg.extractLsb' htreBit 1

/-- `shtr(b, e) = (b & 0xFB) | (e << 2)` (R73, R74). -/
def shtrOf (reg : Byte) (en : BitVec 1) : Byte := (reg &&& ~~~htreMask) ||| (en.setWidth 8 <<< htreBit)

/-- The VDD status (R53). -/
inductive VddStatus where
  | ok
  | low
  deriving DecidableEq, Repr

/-- The VDD status a user register reports: bit 6 = 0 is Ok, 1 is Low (R53, R75). The polarity is the spec's general
knowledge: PRESUMED, unsafe for the two names only, log entry 12. -/
def vddStatusOf (reg : Byte) : VddStatus := if reg.getLsbD vddsBit then .low else .ok

/-- The status as R[0] carries it, Ok = 0 and Low = 1, so that GVDD returns the bit itself (R53). -/
def vddStatusBit : VddStatus → BitVec 1
  | .ok => 0
  | .low => 1

/-- The heater register's low nibble, read direction (R76, R78). -/
def hdecOf (byte : Byte) : Byte := byte &&& heaterMask

/-- A heater value masked to the low nibble, write direction (R77, R78). -/
def hencOf (value : Byte) : Byte := value &&& heaterMask

end Machine
end Sys2Proof
end

