-- ==== Sys2Proof/Machine/Reg.lean ====
section
/-! DEFINITION. The REG family (41_regcodec.md): pure functions of the request, always Ok, CRCF = 0 (R69). -/

namespace Sys2Proof
namespace Machine

/-- GRES (R70). -/
def execGres (reg : Byte) (s : State) : Result := .next (respond .ok false (resultByte (gresOf reg)) s)

/-- SRES (R71). -/
def execSres (reg code : Byte) (s : State) : Result := .next (respond .ok false (resultByte (sresOf reg code)) s)

/-- GHTR (R72). -/
def execGhtr (reg : Byte) (s : State) : Result := .next (respond .ok false (resultBit (ghtrOf reg)) s)

/-- SHTR (R73). -/
def execShtr (reg : Byte) (en : BitVec 1) (s : State) : Result :=
  .next (respond .ok false (resultByte (shtrOf reg en)) s)

/-- GVDD (R75). -/
def execGvdd (reg : Byte) (s : State) : Result :=
  .next (respond .ok false (resultBit (vddStatusBit (vddStatusOf reg))) s)

/-- HDEC (R76). -/
def execHdec (byte : Byte) (s : State) : Result := .next (respond .ok false (resultByte (hdecOf byte)) s)

/-- HENC (R77). -/
def execHenc (value : Byte) (s : State) : Result := .next (respond .ok false (resultByte (hencOf value)) s)

end Machine
end Sys2Proof
end

