-- ==== Sys2Proof/Machine/Sys.lean ====
section
/-! DEFINITION. The SYS family (43_system.md). -/

namespace Sys2Proof
namespace Machine

/-- RDCTL (R90). -/
def execRdctl (s : State) : Result := .next (respond .ok false (resultByte (readCtrl s)) s)

/-- The value WRCTL writes: zext_8(B[0]) (R91). -/
def wrctlNew (data : Byte) : Byte := (data.extractLsb' 0 1).setWidth 8

/-- WRCTL (R91): the response carries the value now in CTRL. -/
def execWrctl (data : Byte) (s : State) : Result :=
  let s1 := writeCtrl (wrctlNew data) s
  .next (respond .ok false (resultByte (readCtrl s1)) s1)

end Machine
end Sys2Proof
end

