-- ==== Sys2Proof/Machine/Dispatch.lean ====
section
/-! DEFINITION. Dispatch: one arm per operation of 30_encoding.md R42. -/

namespace Sys2Proof
namespace Machine

def exec (i : Instr) (s : State) : Host.Outcome State Fault Refusal :=
  match i with
  -- SYS
  | .rdctl => Sys2Proof.Machine.execRdctl s
  | .wrctl data => Sys2Proof.Machine.execWrctl data s
  -- CRC
  | .crcv value crc => Sys2Proof.Machine.execCrcv value crc s
  | .mask value => Sys2Proof.Machine.execMask value s
  | .chk value crc => Sys2Proof.Machine.execChk value crc s
  -- REG
  | .gres reg => Sys2Proof.Machine.execGres reg s
  | .sres reg code => Sys2Proof.Machine.execSres reg code s
  | .ghtr reg => Sys2Proof.Machine.execGhtr reg s
  | .shtr reg en => Sys2Proof.Machine.execShtr reg en s
  | .gvdd reg => Sys2Proof.Machine.execGvdd reg s
  | .hdec byte => Sys2Proof.Machine.execHdec byte s
  | .henc value => Sys2Proof.Machine.execHenc value s
  -- CNV
  | .cvt raw => Sys2Proof.Machine.execCvt raw s
  | .cvh raw => Sys2Proof.Machine.execCvh raw s
  | .meat value crc => Sys2Proof.Machine.execMeat value crc s
  | .meah value crc => Sys2Proof.Machine.execMeah value crc s

end Machine
end Sys2Proof
end

