-- ==== Sys2Proof/Machine/Step.lean ====
section
/-! DEFINITION. One step: one transaction, or one reset event, or nothing when the host presents nothing (20_memory.md R26,
R32, R34; 70_reset_and_hazards.md R109, R122). -/

namespace Sys2Proof
namespace Machine

/-- Serve what the host presents next. A step is one whole transaction (R32): the request leaves the inbox, its response is
delivered and the new CTRL is in force. -/
def step (s : State) : Host.Outcome State Fault Refusal :=
  match takeEvent s with
  | none => .next (idle s)
  | some (.reset, s1) => .next (applyReset s1)
  | some (.request req, s1) =>
    match decode req with
    | .ok i => exec i s1
    | .error e => .next (answerUndecodable e s1)

/-- The state with a request presented first, so that the very next step serves it. The request word is `w` with the bits from
`nbits` up at zero; nothing else changes (log entry 1). -/
def State.withFetchWord (s : State) (nbits w : Nat) : State :=
  { s with inbox := .request (BitVec.ofNat 32 (w % 2 ^ nbits)) :: s.inbox }

end Machine
end Sys2Proof
end

