-- ==== Sys2Proof/Safety.lean ====
section
/-! DEFINITION. The terms claims are made in: the legal responses and the invariant, the rational reading of the conversion
rules (R80 to R84, in Mathlib's ℚ, word for word and independent of the integer code of Machine/), the CTRL that a list of host
events leaves, and the driver's sequences of 41_regcodec.md R79. -/

namespace Sys2Proof
namespace Machine

/-! ## Responses, the invariant, runs -/

/-- The responses the unit can give: Ok with or without CRCF, InvalidArgument and ChecksumMismatch, the two errors with R = 0
(30_encoding.md R40, R41; 60_exceptions.md R94, R95, R96). -/
abbrev Response.legal (x : Response) : Prop :=
  x.st = 0x00 ∨ x.st = 0x10 ∨ (x.st = 0x04 ∧ x.r = 0) ∨ (x.st = 0x18 ∧ x.r = 0)

/-- CTRL is 0x00 or 0x01 (10_state.md R13) and every response delivered is a legal one. -/
abbrev State.Inv (s : State) : Prop := (s.ctrl = 0x00 ∨ s.ctrl = 0x01) ∧ ∀ x ∈ s.outbox, x.legal

/-- The state after a response that changes nothing else. -/
def afterAnswer (s : State) (st : Byte) (r : Word) : State := { s with outbox := s.outbox ++ [{ st := st, r := r }] }

/-- How many of the host's events are requests: each is owed exactly one response (R40). -/
def requestCount : List HostEvent → Nat
  | [] => 0
  | .request _ :: rest => requestCount rest + 1
  | .reset :: rest => requestCount rest

/-- The CTRL one host event leaves: reset gives STRICT_AT_RESET, a WRCTL its B[0], anything else the CTRL it found
(10_state.md R18; 20_memory.md R34). -/
def ctrlAfterEvent (c : Config) (ctrl : Byte) : HostEvent → Byte
  | .reset => if c.strictAtReset then 0x01 else 0x00
  | .request req => if opcOf req = 0x01 then (if req.getLsbD 0 then 0x01 else 0x00) else ctrl

/-- The CTRL a list of host events leaves (R34, R122). -/
def ctrlAfter (c : Config) (ctrl : Byte) (events : List HostEvent) : Byte := events.foldl (ctrlAfterEvent c) ctrl

/-- What the unit answers a request presented alone, with a given CTRL and with nothing answered before: the response that the
operation it decodes to delivers, or InvalidArgument for a reserved code (R26, R34, R94). It is none only if the operation stops. -/
def responseTo (c : Config) (ctrl : Byte) (req : Word) : Option Response :=
  match decode req with
  | .error _ => some { st := 0x04, r := 0x00000000 }
  | .ok i =>
    match exec i { config := c, ctrl := ctrl, inbox := [], outbox := [] } with
    | .next t => t.outbox.head?
    | .fault _ => none
    | .refused _ => none

/-- The reading whose check an operation evaluates: CRCV, CHK, MEAT and MEAH (10_state.md R16). -/
def readingOf : Instr → Option (Half × Byte)
  | .rdctl => none
  | .wrctl _ => none
  | .crcv value crc => some (value, crc)
  | .mask _ => none
  | .chk value crc => some (value, crc)
  | .gres _ => none
  | .sres _ _ => none
  | .ghtr _ => none
  | .shtr _ _ => none
  | .gvdd _ => none
  | .hdec _ => none
  | .henc _ => none
  | .cvt _ => none
  | .cvh _ => none
  | .meat value crc => some (value, crc)
  | .meah value crc => some (value, crc)

/-- Whether CTRL.STRICT governs the operation: CHK, MEAT and MEAH (40_crc.md R66). -/
def governedByStrict : Instr → Bool
  | .rdctl => false
  | .wrctl _ => false
  | .crcv _ _ => false
  | .mask _ => false
  | .chk _ _ => true
  | .gres _ => false
  | .sres _ _ => false
  | .ghtr _ => false
  | .shtr _ _ => false
  | .gvdd _ => false
  | .hdec _ => false
  | .henc _ => false
  | .cvt _ => false
  | .cvh _ => false
  | .meat _ _ => true
  | .meah _ _ => true

/-! ## The conversion rules in ℚ -/

/-- The rational a fraction stands for. -/
def fracRat (q : Frac) : ℚ := q.num / q.den

/-- `Texact(raw)` (42_conversion.md R80, first line). -/
def texactRat (raw : Half) : ℚ := raw.toNat * (17572 / 100) / 65536 - 4685 / 100

/-- `Hexact(raw)` (R80, first line). -/
def hexactRat (raw : Half) : ℚ := 125 * raw.toNat / 65536 - 6

/-- n after the rounding of m: n <- floor(m), f <- m - n, one more if f is over a half, or a half and n odd (R81). -/
def nearestEven (m : ℚ) : ℤ := if m - ⌊m⌋ > 1 / 2 ∨ (m - ⌊m⌋ = 1 / 2 ∧ ⌊m⌋ % 2 = 1) then ⌊m⌋ + 1 else ⌊m⌋

/-- The pattern {s, (e + 127)[7:0], (n - 2^23)[22:0]} of R81. -/
def patternOf (neg : Bool) (e n : ℤ) : Word := BitVec.ofBool neg ++ BitVec.ofInt 8 (e + 127) ++ BitVec.ofInt 23 (n - 2 ^ 23)

/-- `rne32(q)` (R81), e being the integer with 2^e ≤ |q| < 2^(e+1). -/
def rne32Rat (q : ℚ) : Word :=
  if q = 0 then 0x00000000
  else
    let e := Int.log 2 |q|
    let n := nearestEven (|q| / 2 ^ (e - 23))
    if n = 2 ^ 24 then patternOf (decide (q < 0)) (e + 1) (2 ^ 23) else patternOf (decide (q < 0)) e n

/-- `f32({s, E, F})` for 1 ≤ E ≤ 254 (R81); a pattern with E = 0 is read as IEEE 754 does, so that zero is 0 (log entry 6). -/
def f32Rat (w : Word) : ℚ :=
  let sign : ℚ := if w.getLsbD 31 then -1 else 1
  let ex : ℕ := w.toNat / 2 ^ 23 % 256
  let fr : ℕ := w.toNat % 2 ^ 23
  if ex = 0 then sign * fr / 2 ^ 149 else sign * (2 ^ 23 + fr) * (2 : ℚ) ^ ((ex : ℤ) - 150)

/-- The temperature result (R82, R83, R85). -/
def tempRat (mode : TempNumericMode) (raw : Half) : Word :=
  match mode with
  | .exactRne32 => rne32Rat (texactRat raw)
  | .f32Stepwise => rne32Rat (f32Rat (rne32Rat (raw.toNat * f32Rat 0x432FB852)) / 65536 - f32Rat 0x423B6666)

/-- The temperature result as R85 states it over all raw counts: its corner case gives the pattern for raw 0 (95_test_vectors.md
part 4 gives it for the stepwise mode too, where `f32` would be asked for the pattern of zero), the definition every other. -/
def tempResult (mode : TempNumericMode) (raw : Half) : Word := if raw = 0 then 0xC23B6666 else tempRat mode raw

/-- The humidity result (R84, R86). -/
def humRat (raw : Half) : Word := rne32Rat (hexactRat raw)

/-- The legacy sentinel -999, as binary32 (30_encoding.md R57). -/
def sentinelBits : Word := 0xC479C000

/-! ## The driver's sequences (41_regcodec.md R79) -/

/-- The register calls of the driver. -/
inductive DriverCall where
  | getResolution
  | setResolution (code : Byte)
  | getHeaterStatus
  | setHeaterStatus (en : BitVec 1)
  | readVddStatus
  | getHeaterRegister
  | setHeaterRegister (value : Byte)
  deriving DecidableEq, Repr

/-- The operation the host presents for a call, given the byte it has just read from the sensor (R79, R113). -/
def driverRequest (call : DriverCall) (readByte : Byte) : Instr :=
  match call with
  | .getResolution => .gres readByte
  | .setResolution code => .sres readByte code
  | .getHeaterStatus => .ghtr readByte
  | .setHeaterStatus en => .shtr readByte en
  | .readVddStatus => .gvdd readByte
  | .getHeaterRegister => .hdec readByte
  | .setHeaterRegister value => .henc value

/-- What the host writes back to the sensor: exactly R[7:0] (70_reset_and_hazards.md R129). -/
def writeBackByte (x : Response) : Byte := x.r.extractLsb' 0 8

end Machine
end Sys2Proof
end

