-- ==== Sys2Proof/Certificates/Slice0/Obligations.lean ====
section
/-! DEFINITION. What the provers are asked to show of the model. Each docstring names the rules of spec/ it formalises. -/

open Sys2Proof Sys2Proof.Machine

/-! ## Encoding -/

/-- R42, R47: a few request words written out from R47's table and what they decode to. -/
def Obligations.WrittenOutWordsDecode : Prop :=
  decode 0x00000000 = .ok .rdctl ∧ decode 0x01000001 = .ok (.wrctl 0x01) ∧ decode 0x12683A7C = .ok (.chk 0x683A 0x7C) ∧
    decode 0x2100813A = .ok (.sres 0x3A 0x81) ∧ decode 0x230001BB = .ok (.shtr 0xBB 1) ∧
    decode 0x32683A7C = .ok (.meat 0x683A 0x7C)

/-- R47, R43: decoding an encoded operation gives it back, for every operand value. -/
def Obligations.DecodeOfEncode : Prop := ∀ i : Instr, decode (encode i) = .ok i

/-- R47: encoding what a word decodes to gives the word back with the fields its syntax does not set at zero. -/
def Obligations.EncodeOfDecode : Prop :=
  ∀ (w : Word) (i : Instr), decode w = .ok i → encode i = w &&& syntaxMask (opcOf w)

/-- R44: exactly the words with a reserved operation code are rejected, and 240 codes are reserved. -/
def Obligations.ExactlyReservedWordsRejected : Prop :=
  (∀ w : Word, if reservedOpc (opcOf w) then decode w = .error (.reservedOpc (opcOf w)) else ∃ i, decode w = .ok i) ∧
    ((List.range 256).filter fun n => reservedOpc (BitVec.ofNat 8 n)).length = 240

/-- R42: a request selects at most one row of the operation map. -/
def Obligations.OperationMapRowsDisjoint : Prop :=
  ∀ w : Word, (operationMap.filter (rowSelects w)).length ≤ 1

/-- R27: the row holds the value in its high 16 bits and the check byte in its low 8, and for the operations that take a
reading it is REQ[23:0] unchanged. -/
def Obligations.CrcRowIsRequestLowBits : Prop :=
  (∀ (value : Half) (crc : Byte), (rowOf value crc).toNat = value.toNat * 256 + crc.toNat) ∧
    ∀ w : Word, rowOf (fieldA w) (fieldB w) = w.extractLsb' 0 24

/-- R39, R45: bits that the operation does not read change neither the response nor the next state. -/
def Obligations.UnreadBitsHaveNoEffect : Prop :=
  ∀ (s : State) (w1 w2 : Word), (w1 ^^^ w2) &&& readMask (opcOf w1) = 0 →
    step { s with inbox := .request w1 :: s.inbox } = step { s with inbox := .request w2 :: s.inbox }

/-- R47, R48: an assembled line other than `.word` is the canonical word of the operation it names, and decodes to it. -/
def Obligations.AssembledLineDecodes : Prop :=
  ∀ (l : AsmLine) (w : Word), l.mnemonic ≠ .dotWord → assemble l = some w →
    ∃ i, l.instr = some i ∧ decode w = .ok i ∧ canonicalWord w = true

/-! ## The step -/

/-- R26, R32, R34: what a step does with the next host event: it takes it out of the inbox and runs exec on the operation it
decodes to. With nothing presented it changes nothing, which is the model's choice (log entry 1). -/
def Obligations.StepRunsDecodedRequest : Prop :=
  ∀ s : State,
    (s.inbox = [] → step s = .next s) ∧
    (∀ req rest i, s.inbox = .request req :: rest → decode req = .ok i → i.wellFormed = true →
      step s = exec i { s with inbox := rest }) ∧
    (∀ i, step (s.withFetchWord 32 (encode i).toNat) = exec i s)

/-- R44, R94: a request with a reserved code, one of 240, is answered ST = 0x04, R = 0, and CTRL is unchanged; no defined
operation is answered with code 4. -/
def Obligations.ReservedCodeAnswersInvalidArgument : Prop :=
  (∀ (s : State) (req : Word) (rest : List HostEvent), s.inbox = .request req :: rest → reservedOpc (opcOf req) = true →
    step s = .next { s with inbox := rest, outbox := s.outbox ++ [{ st := 0x04, r := 0x00000000 }] }) ∧
  (∀ (i : Instr) (s : State), ∃ t x, exec i s = .next t ∧ t.outbox = s.outbox ++ [x] ∧ stCode x.st ≠ 4) ∧
  ∀ w : Word, reservedOpc (opcOf w) = true ↔
    opcOf w ∉ [0x00#8, 0x01#8, 0x10#8, 0x11#8, 0x12#8, 0x20#8, 0x21#8, 0x22#8, 0x23#8, 0x24#8, 0x25#8, 0x26#8, 0x30#8,
      0x31#8, 0x32#8, 0x33#8]

/-- R109: reset makes CTRL 0x00, or its bit 0 STRICT_AT_RESET, and does nothing else. -/
def Obligations.ResetEventSetsCtrlOnly : Prop :=
  ∀ (s : State) (rest : List HostEvent), s.inbox = .reset :: rest →
    step s = .next { s with inbox := rest, ctrl := BitVec.ofNat 8 (if s.config.strictAtReset then 1 else 0) }

/-- R24, R110: after reset CTRL is 0x00 under the default parameters, and bits 7:1 are zero under any. -/
def Obligations.ResetLeavesSoftFail : Prop :=
  State.reset.ctrl = 0x00 ∧ ∀ c : Config, (State.resetWith c).ctrl.toNat = if c.strictAtReset then 1 else 0

/-- R6, R96: the unit always answers: a step of any state is a next state. -/
def Obligations.StepAlwaysAnswers : Prop := ∀ s : State, ∃ t, step s = .next t

/-- R13, R40, R96 at reset: CTRL is 0x00 or 0x01 and there is no illegal response. -/
def Obligations.ResetMeetsInvariant : Prop := ∀ c : Config, (State.resetWith c).Inv

/-- R13, R17, R40, R96: every step keeps CTRL at 0x00 or 0x01 and adds only legal responses. -/
def Obligations.StepKeepsInvariant : Prop := ∀ s t : State, s.Inv → step s = .next t → t.Inv

/-- R18: CTRL is changed by reset and by WRCTL and by nothing else. -/
def Obligations.OnlyWrctlAndResetChangeCtrl : Prop :=
  ∀ s t : State, step s = .next t → t.ctrl ≠ s.ctrl →
    ∃ rest, s.inbox = .reset :: rest ∨ ∃ req, opcOf req = 0x01 ∧ s.inbox = .request req :: rest

/-- R18, R26, R31: the frame of every operation: one response is added; the parameters and what the host presents stay; CTRL
stays but for WRCTL. -/
def Obligations.OperationFrame : Prop :=
  ∀ (i : Instr) (s t : State), exec i s = .next t →
    t.config = s.config ∧ t.inbox = s.inbox ∧ (∃ x, t.outbox = s.outbox ++ [x]) ∧
      ((∀ data, i ≠ .wrctl data) → t.ctrl = s.ctrl)

/-- R34 (b), R23: the response and the next CTRL depend only on the operation, CTRL and the numeric mode: neither on what was
answered before, nor on what else is presented, nor on STRICT_AT_RESET. -/
def Obligations.ResponseDependsOnRequestAndCtrl : Prop :=
  ∀ (i : Instr) (s1 s2 : State), s1.ctrl = s2.ctrl → s1.config.tempNumericMode = s2.config.tempNumericMode →
    ∃ (x : Response) (c : Byte),
      exec i s1 = .next { s1 with ctrl := c, outbox := s1.outbox ++ [x] } ∧
      exec i s2 = .next { s2 with ctrl := c, outbox := s2.outbox ++ [x] }

/-- R66: STRICT governs CHK, MEAT and MEAH and nothing else. On a bad reading these three answer ST = 0x10 with STRICT 0 and the
ChecksumMismatch response with STRICT 1; on a good one they give the same response in both modes, and so does any other operation
but RDCTL, which reads the register itself (R90). -/
def Obligations.StrictGovernsThreeOperations : Prop :=
  (∀ (i : Instr) (s : State) (p : Half × Byte) (c0 c1 : Byte), governedByStrict i = true → readingOf i = some p →
    validate p.1 p.2 = false → c0.getLsbD 0 = false → c1.getLsbD 0 = true →
    ∃ x t u, exec i { s with ctrl := c0 } = .next t ∧ exec i { s with ctrl := c1 } = .next u ∧
      t.outbox = s.outbox ++ [x] ∧ x.st = 0x10 ∧ u.outbox = s.outbox ++ [{ st := 0x18, r := 0x00000000 }]) ∧
  ∀ (i : Instr) (s : State) (c : Byte), i ≠ .rdctl →
    (governedByStrict i = true → ∀ p, readingOf i = some p → validate p.1 p.2 = true) →
    ∃ x t u, exec i s = .next t ∧ exec i { s with ctrl := c } = .next u ∧
      t.outbox = s.outbox ++ [x] ∧ u.outbox = s.outbox ++ [x]

/-- R34 (a), R91: a WRCTL is seen by the very next request. -/
def Obligations.WrctlSeenByNextRequest : Prop :=
  ∀ (s : State) (data : Byte) (i : Instr) (rest : List HostEvent),
    s.inbox = .request (encode (.wrctl data)) :: .request (encode i) :: rest →
    ∃ s1, step s = .next s1 ∧ s1.ctrl.toNat = data.toNat % 2 ∧ s1.inbox = .request (encode i) :: rest ∧
      step s1 = exec i { s1 with inbox := rest }

/-- R31: presenting a request again after it was answered gives the same response and leaves the same CTRL. -/
def Obligations.OperationsAreIdempotent : Prop :=
  ∀ (i : Instr) (s : State), ∃ x c,
    exec i s = .next { s with ctrl := c, outbox := s.outbox ++ [x] } ∧
    exec i { s with ctrl := c, outbox := s.outbox ++ [x] } =
      .next { s with ctrl := c, outbox := s.outbox ++ [x] ++ [x] }

/-- R93: an error response is ST = {0b000, crcf, Code} with R = 0, and writes no state. -/
def Obligations.ErrorResponseWritesNothing : Prop :=
  ∀ (s t : State) (req : Word) (rest : List HostEvent) (x : Response), s.inbox = .request req :: rest →
    step s = .next t → t.outbox = s.outbox ++ [x] → stCode x.st ≠ 0 →
      x.st.toNat / 32 = 0 ∧ x.r = 0x00000000 ∧ t = { s with inbox := rest, outbox := s.outbox ++ [x] }

/-- R16: CRCF is set exactly when the operation evaluated `validate` and the verdict was false; a reserved code leaves it 0. -/
def Obligations.CrcfExactlyOnFalseVerdict : Prop :=
  ∀ (s : State) (req : Word) (rest : List HostEvent), s.inbox = .request req :: rest →
    ∃ t x, step s = .next t ∧ t.outbox = s.outbox ++ [x] ∧
      (stCrcf x.st = true ↔ ∃ i p, decode req = .ok i ∧ readingOf i = some p ∧ validate p.1 p.2 = false)

/-- R95: ChecksumMismatch is the response, 0x18 with R = 0, exactly when CHK, MEAT or MEAH finds the verdict false in strict
mode; in soft-fail mode the same reading is answered Ok with CRCF set. -/
def Obligations.ChecksumMismatchExactlyInStrict : Prop :=
  ∀ (i : Instr) (s : State), ∃ t x, exec i s = .next t ∧ t.outbox = s.outbox ++ [x] ∧
    (stCode x.st = 8 ↔ governedByStrict i = true ∧ s.ctrl.getLsbD 0 = true ∧
      ∃ p, readingOf i = some p ∧ validate p.1 p.2 = false) ∧
    (stCode x.st = 8 → x = { st := 0x18, r := 0x00000000 }) ∧
    (governedByStrict i = true → s.ctrl.getLsbD 0 = false →
      (∃ p, readingOf i = some p ∧ validate p.1 p.2 = false) → x.st = 0x10)

/-- R26, R34, R40, R122: a run serves everything presented and answers each request exactly once, in order: the answer to the
request after the events `before` stands at the place that counts the requests among them, and is what the unit answers that
request alone with the CTRL that `before` leaves. Every answer is legal. -/
def Obligations.RunAnswersEveryRequest : Prop :=
  ∀ s : State, ∃ (t : State) (answers : List Response), Host.Core.run Sys2Proof.core s.inbox.length s = .next t ∧
    t.inbox = [] ∧ t.config = s.config ∧ t.outbox = s.outbox ++ answers ∧
    answers.length = requestCount s.inbox ∧ (∀ x ∈ answers, x.legal) ∧
    ∀ before req rest, s.inbox = before ++ .request req :: rest →
      ∃ x, answers[requestCount before]? = some x ∧
        responseTo s.config (ctrlAfter s.config s.ctrl before) req = some x

/-- R18, R34, R122: the CTRL a run ends with is the one the WRCTLs and resets presented leave. -/
def Obligations.RunCtrlIsLastWrite : Prop :=
  ∀ s t : State, Host.Core.run Sys2Proof.core s.inbox.length s = .next t →
    t.ctrl = ctrlAfter s.config s.ctrl s.inbox

/-! ## SYS -/

/-- R90: RDCTL answers CTRL zero-extended, 0 or 1, with status Ok, and writes nothing; A and B are ignored. -/
def Obligations.RdctlAnswersCtrl : Prop :=
  (∀ (a : Half) (b : Byte), decode (reqWord 0x00 a b) = .ok .rdctl) ∧
  ∀ s : State, exec .rdctl s = .next (afterAnswer s 0x00 (BitVec.ofNat 32 (s.ctrl.toNat % 2))) ∧
    (s.Inv → s.ctrl.toNat % 2 = s.ctrl.toNat)

/-- R91: WRCTL writes B[0] to STRICT, zero to bits 7:1, and answers the new CTRL; B[7:1] and A are ignored. -/
def Obligations.WrctlWritesStrict : Prop :=
  (∀ (a : Half) (data : Byte), decode (reqWord 0x01 a data) = .ok (.wrctl data)) ∧
  ∀ (data : Byte) (s : State), exec (.wrctl data) s = .next
    { s with
      ctrl := BitVec.ofNat 8 (data.toNat % 2)
      outbox := s.outbox ++ [{ st := 0x00, r := BitVec.ofNat 32 (data.toNat % 2) }] }

/-! ## CRC -/

/-- R62 (a), (b): the high bits of the remainder are clear, and the check byte only adds to it. -/
def Obligations.RemainderOfRow : Prop :=
  ∀ (value : Half) (crc : Byte), rem24 (rowOf value crc) = (crc8 value ^^^ crc).setWidth 24

/-- R62 (c), (d): exactly one check byte of a value is valid, that of `crc8`. -/
def Obligations.ExactlyOneCheckByteValid : Prop :=
  (∀ (value : Half) (crc : Byte), validate value crc = true ↔ crc = crc8 value) ∧ crc8 0x0000 = 0x00

/-- R62 (e): linearity. -/
def Obligations.RemainderIsLinear : Prop :=
  (∀ x y : Row, rem24 (x ^^^ y) = rem24 x ^^^ rem24 y) ∧ ∀ a b : Half, crc8 (a ^^^ b) = crc8 a ^^^ crc8 b

/-- R62 (f): flipping one of the 24 bits of a valid row makes it invalid. -/
def Obligations.SingleBitErrorsDetected : Prop :=
  ∀ (row : Row) (k : Nat), k < 24 → rem24 row = 0 → rem24 (row ^^^ (1#24 <<< k)) ≠ 0

/-- R62 (g), in part: every error burst of length 8 or less is detected. -/
def Obligations.ShortBurstsDetected : Prop :=
  ∀ (row : Row) (pattern : Byte) (k : Nat), k ≤ 16 → pattern ≠ 0 → rem24 row = 0 →
    rem24 (row ^^^ (pattern.setWidth 24 <<< k)) ≠ 0

/-- R62 (g), in part: no error pattern of odd weight goes undetected. -/
def Obligations.OddWeightErrorsDetected : Prop :=
  ∀ row err : Row, ((List.range 24).filter fun k => err.getLsbD k).length % 2 = 1 → rem24 row = 0 →
    rem24 (row ^^^ err) ≠ 0

/-- R62 (h): the serial form computes the same check byte, and so does the table form of 95_test_vectors.md part 2. -/
def Obligations.SerialFormComputesCrc8 : Prop :=
  ∀ value : Half, crc8 value = crc8Serial value ∧
    crc8 value = crc8 ((crc8 ((value.extractLsb' 8 8).setWidth 16) ^^^ value.extractLsb' 0 8).setWidth 16)

/-- R63: CRCV answers the verdict in R[0] and its complement in CRCF, in both modes, never an error; the verdict is that of the
serial form. -/
def Obligations.CrcvAnswersVerdict : Prop :=
  ∀ (value : Half) (crc : Byte), decode (reqWord 0x10 value crc) = .ok (.crcv value crc) ∧
    (validate value crc = true ↔ crc = crc8Serial value) ∧
    ∀ s : State, exec (.crcv value crc) s =
      .next (if validate value crc then afterAnswer s 0x00 1 else afterAnswer s 0x10 0)

/-- R64: MASK answers the value with its two low bits cleared; B is ignored. -/
def Obligations.MaskClearsStatusBits : Prop :=
  ∀ value : Half, (∀ b : Byte, decode (reqWord 0x11 value b) = .ok (.mask value)) ∧
    ∀ s : State, exec (.mask value) s = .next (afterAnswer s 0x00 (BitVec.ofNat 32 (value.toNat / 4 * 4)))

/-- R65: CHK. A good reading, or any reading in soft-fail mode, is answered with the masked value and the flag; a bad reading
in strict mode with ChecksumMismatch and R = 0. -/
def Obligations.ChkUnderPolicy : Prop :=
  ∀ (value : Half) (crc : Byte), decode (reqWord 0x12 value crc) = .ok (.chk value crc) ∧
    ∀ s : State,
      (validate value crc = true ∨ s.ctrl.getLsbD 0 = false →
        exec (.chk value crc) s = .next (afterAnswer s (if validate value crc then 0x00 else 0x10)
          (BitVec.ofNat 32 (value.toNat / 4 * 4)))) ∧
      (validate value crc = false → s.ctrl.getLsbD 0 = true →
        exec (.chk value crc) s = .next (afterAnswer s 0x18 0x00000000))

/-! ## REG -/

/-- R70: GRES answers bits 7 and 0 of the register, in place, which is always one of the four resolution codes; A is ignored. -/
def Obligations.GresAnswersResolution : Prop :=
  ∀ reg : Byte, (∀ a : Half, decode (reqWord 0x20 a reg) = .ok (.gres reg)) ∧
    (∀ s : State, exec (.gres reg) s =
      .next (afterAnswer s 0x00 (BitVec.ofNat 32 (reg.toNat / 128 * 128 + reg.toNat % 2)))) ∧
    ∃ mode : ResolutionMode, (resolutionCode mode).toNat = reg.toNat / 128 * 128 + reg.toNat % 2

/-- R71: SRES answers the register with bits 7 and 0 taken from the code and bits 6:1 kept; A[15:8] is ignored. -/
def Obligations.SresMergesResolution : Prop :=
  ∀ reg code : Byte, (∀ hi : Byte, decode (reqWord 0x21 (halfOf hi code) reg) = .ok (.sres reg code)) ∧
    ∀ s : State, exec (.sres reg code) s = .next (afterAnswer s 0x00
      (BitVec.ofNat 32 (code.toNat / 128 * 128 + reg.toNat / 2 % 64 * 2 + code.toNat % 2)))

/-- R72: GHTR answers bit 2 of the register in R[0]; A is ignored. -/
def Obligations.GhtrAnswersHeaterEnable : Prop :=
  ∀ reg : Byte, (∀ a : Half, decode (reqWord 0x22 a reg) = .ok (.ghtr reg)) ∧
    ∀ s : State, exec (.ghtr reg) s = .next (afterAnswer s 0x00 (BitVec.ofNat 32 (reg.toNat / 4 % 2)))

/-- R73: SHTR answers the register with bit 2 replaced by A[0] and every other bit kept; A[15:1] is ignored. -/
def Obligations.ShtrMergesHeaterEnable : Prop :=
  ∀ (reg : Byte) (en : BitVec 1),
    (∀ hi : BitVec 15, decode (reqWord 0x23 (halfOfBit hi en) reg) = .ok (.shtr reg en)) ∧
    ∀ s : State, exec (.shtr reg en) s = .next (afterAnswer s 0x00
      (BitVec.ofNat 32 (reg.toNat / 8 * 8 + en.toNat * 4 + reg.toNat % 4)))

/-- R75: GVDD answers bit 6 of the register in R[0]; A is ignored. The names Ok and Low of its two values are the
spec's general knowledge (log entry 12) and no part of this. -/
def Obligations.GvddAnswersVddBit : Prop :=
  ∀ reg : Byte, (∀ a : Half, decode (reqWord 0x24 a reg) = .ok (.gvdd reg)) ∧
    (∀ s : State, exec (.gvdd reg) s = .next (afterAnswer s 0x00 (BitVec.ofNat 32 (reg.toNat / 64 % 2))))

/-- R76, R77: HDEC and HENC answer the low nibble of their byte; A is ignored. -/
def Obligations.HeaterCodecAnswersLowNibble : Prop :=
  ∀ byte : Byte,
    (∀ a : Half, decode (reqWord 0x25 a byte) = .ok (.hdec byte) ∧ decode (reqWord 0x26 a byte) = .ok (.henc byte)) ∧
    ∀ s : State,
      exec (.hdec byte) s = .next (afterAnswer s 0x00 (BitVec.ofNat 32 (byte.toNat % 16))) ∧
      exec (.henc byte) s = .next (afterAnswer s 0x00 (BitVec.ofNat 32 (byte.toNat % 16)))

/-- R74 (a) to (h) and R78: the laws of the two merges and of the heater codec. -/
def Obligations.RegisterCodecLaws : Prop :=
  (∀ (b c : Byte) (e : BitVec 1),
    gresOf (sresOf b c) = c &&& 0x81 ∧
    sresOf b c &&& 0x7E = b &&& 0x7E ∧
    ghtrOf (shtrOf b e) = e ∧
    (shtrOf b e &&& 0xFB = b &&& 0xFB ∧ gresOf (shtrOf b e) = gresOf b) ∧
    (ghtrOf (sresOf b c) = ghtrOf b ∧ (sresOf b c).getLsbD 6 = b.getLsbD 6 ∧ (shtrOf b e).getLsbD 6 = b.getLsbD 6) ∧
    (sresOf b (gresOf b) = b ∧ shtrOf b (ghtrOf b) = b) ∧
    shtrOf (sresOf b c) e = sresOf (shtrOf b e) c ∧
    (sresOf (sresOf b c) c = sresOf b c ∧ shtrOf (shtrOf b e) e = shtrOf b e)) ∧
  ∀ b : Byte, hdecOf (hencOf b) = b &&& 0x0F ∧ hencOf (hdecOf b) = b &&& 0x0F ∧
    hdecOf (hdecOf b) = hdecOf b ∧ hencOf (hencOf b) = hencOf b ∧ (b.toNat ≤ 15 → hdecOf b = b ∧ hencOf b = b)

/-- R79 (95_test_vectors.md S7, S8): a driver that sets the resolution or the heater, writes R[7:0] back and then reads it,
gets what it set, and the bits it did not set are as they were. -/
def Obligations.DriverReadsBackWhatItSet : Prop :=
  ∀ (s s' : State) (reg code : Byte) (en : BitVec 1), ∃ x y : Response,
    exec (driverRequest (.setResolution code) reg) s = .next (afterAnswer s x.st x.r) ∧
    exec (driverRequest .getResolution (writeBackByte x)) s' =
      .next (afterAnswer s' 0x00 (BitVec.ofNat 32 (code.toNat / 128 * 128 + code.toNat % 2))) ∧
    (writeBackByte x).toNat / 2 % 64 = reg.toNat / 2 % 64 ∧
    exec (driverRequest (.setHeaterStatus en) reg) s = .next (afterAnswer s y.st y.r) ∧
    exec (driverRequest .getHeaterStatus (writeBackByte y)) s' = .next (afterAnswer s' 0x00 (BitVec.ofNat 32 en.toNat)) ∧
    ∀ k, k < 8 → k ≠ 2 → (writeBackByte y).getLsbD k = reg.getLsbD k

/-! ## CNV -/

/-- R80: the two forms of each formula agree, and the model's fractions stand for them. -/
def Obligations.ExactFormulas : Prop :=
  ∀ raw : Half,
    fracRat (texact raw) = texactRat raw ∧ texactRat raw = (4393 * (raw.toNat : ℚ) - 76759040) / 1638400 ∧
    fracRat (hexact raw) = hexactRat raw ∧ hexactRat raw = (125 * (raw.toNat : ℚ) - 393216) / 65536

/-- R81: the integer `rne32` and `f32` are the rational ones, on every fraction and every pattern R81 gives them for. -/
def Obligations.RoundingRefinesRational : Prop :=
  (∀ q : Frac, 0 < q.den → (fracRat q = 0 ∨ ((2 : ℚ) ^ (-126 : ℤ) ≤ |fracRat q| ∧ |fracRat q| < 2 ^ 128)) →
    rne32 q = rne32Rat (fracRat q)) ∧
  ∀ w : Word, 1 ≤ exponentOf w → exponentOf w ≤ 254 → 0 < (f32 w).den ∧ fracRat (f32 w) = f32Rat w

/-- R82, R83, R85: CVT answers the temperature of the raw count by the rational definition, in either mode; B is ignored. At raw 0
it is the pattern that R85's corner cases give, so that nothing here rests on how log entry 6 reads the pattern of zero. -/
def Obligations.CvtConvertsTemperature : Prop :=
  ∀ raw : Half, (∀ b : Byte, decode (reqWord 0x30 raw b) = .ok (.cvt raw)) ∧
    ∀ s : State, exec (.cvt raw) s = .next (afterAnswer s 0x00 (tempResult s.config.tempNumericMode raw))

/-- R84, R86: CVH answers the humidity of the raw count, and the rounding never rounds; B is ignored. -/
def Obligations.CvhConvertsHumidity : Prop :=
  ∀ raw : Half, (∀ b : Byte, decode (reqWord 0x31 raw b) = .ok (.cvh raw)) ∧
    f32Rat (humRat raw) = hexactRat raw ∧
    ∀ s : State, exec (.cvh raw) s = .next (afterAnswer s 0x00 (humRat raw))

/-- R87: MEAT. A good reading, or any reading in soft-fail mode, is answered with the temperature of the masked value and the
flag; a bad reading in strict mode with ChecksumMismatch and R = 0. The temperature of masked value 0 is R85's pattern, as for
CVT, and does not rest on log entry 6. -/
def Obligations.MeatUnderPolicy : Prop :=
  ∀ (value : Half) (crc : Byte), decode (reqWord 0x32 value crc) = .ok (.meat value crc) ∧
    ∀ s : State,
      (validate value crc = true ∨ s.ctrl.getLsbD 0 = false →
        exec (.meat value crc) s = .next (afterAnswer s (if validate value crc then 0x00 else 0x10)
          (tempResult s.config.tempNumericMode (BitVec.ofNat 16 (value.toNat / 4 * 4))))) ∧
      (validate value crc = false → s.ctrl.getLsbD 0 = true →
        exec (.meat value crc) s = .next (afterAnswer s 0x18 0x00000000))

/-- R88: MEAH. A good reading, or any reading in soft-fail mode, is answered with the humidity of the masked value and the flag;
a bad reading in strict mode with ChecksumMismatch and R = 0. -/
def Obligations.MeahUnderPolicy : Prop :=
  ∀ (value : Half) (crc : Byte), decode (reqWord 0x33 value crc) = .ok (.meah value crc) ∧
    ∀ s : State,
      (validate value crc = true ∨ s.ctrl.getLsbD 0 = false →
        exec (.meah value crc) s = .next (afterAnswer s (if validate value crc then 0x00 else 0x10)
          (humRat (BitVec.ofNat 16 (value.toNat / 4 * 4))))) ∧
      (validate value crc = false → s.ctrl.getLsbD 0 = true →
        exec (.meah value crc) s = .next (afterAnswer s 0x18 0x00000000))

/-- R87, R88: MEAT is CHK followed by CVT on CHK's result, MEAH is CHK followed by CVH: the same ST, and the same R unless it is
an error. -/
def Obligations.ReadingIsCheckThenConvert : Prop :=
  ∀ (value : Half) (crc : Byte) (s : State), ∃ st r rt rh,
    exec (.chk value crc) s = .next (afterAnswer s st r) ∧
    exec (.meat value crc) s = .next (afterAnswer s st rt) ∧
    exec (.meah value crc) s = .next (afterAnswer s st rh) ∧
    (stCode st = 0 → exec (.cvt (r.setWidth 16)) s = .next (afterAnswer s 0x00 rt) ∧
      exec (.cvh (r.setWidth 16)) s = .next (afterAnswer s 0x00 rh)) ∧
    (stCode st ≠ 0 → rt = 0 ∧ rh = 0)

/-- R82, R83, in part: the distance of the 32-bit temperature from the exact one, in each mode. In f32_stepwise at raw 0 the
result rests on log entry 6 (PRESUMED: the pattern of zero is read as 0) and is the pattern that 95_test_vectors.md part 4 gives. -/
def Obligations.TemperatureErrorBounds : Prop :=
  ∀ raw : Half, |f32Rat (temp32 .exactRne32 raw) - texactRat raw| ≤ 733 / 10 ^ 8 ∧
    |f32Rat (temp32 .f32Stepwise raw) - texactRat raw| ≤ 178 / 10 ^ 7

/-- R89, in part: the 32-bit results are strictly increasing in the raw count, as numbers, the temperature in either mode. In
f32_stepwise at raw 0 the result rests on log entry 6 (PRESUMED: the pattern of zero is read as 0). -/
def Obligations.ConversionsStrictlyIncrease : Prop :=
  ∀ (mode : TempNumericMode) (a b : Half), a.toNat < b.toNat →
    f32Rat (temp32 mode a) < f32Rat (temp32 mode b) ∧ f32Rat (hum32 a) < f32Rat (hum32 b)

/-- R89, R55, in part: every conversion result is a normal number within the stated range, in both modes. In f32_stepwise at raw 0
the result rests on log entry 6 (PRESUMED: the pattern of zero is read as 0). -/
def Obligations.ConversionResultsNormalInRange : Prop :=
  ∀ (mode : TempNumericMode) (raw : Half),
    (-4685 / 100 ≤ f32Rat (temp32 mode raw) ∧ f32Rat (temp32 mode raw) ≤ 12887 / 100 ∧
      1 ≤ exponentOf (temp32 mode raw) ∧ exponentOf (temp32 mode raw) ≤ 254) ∧
    (-6 ≤ f32Rat (hum32 raw) ∧ f32Rat (hum32 raw) ≤ 119 ∧ 1 ≤ exponentOf (hum32 raw) ∧ exponentOf (hum32 raw) ≤ 254)

/-- R57, R89: no operation, in any state, answers the legacy sentinel -999. In f32_stepwise at raw 0 the temperature rests on log
entry 6 (PRESUMED: the pattern of zero is read as 0). -/
def Obligations.SentinelNeverAnswered : Prop :=
  ∀ s t : State, step s = .next t → ∀ x, t.outbox = s.outbox ++ [x] → x.r ≠ sentinelBits
end

