-- ==== Sys2Proof/Laws/State.lean ====
section
/-! SUPPORT. One lemma per field per update of the state, so that no later proof unfolds a record update. -/

namespace Sys2Proof
namespace Machine

variable (s : State) (x : Response) (v : Byte) (code : ErrorCode) (crcf : Bool) (r : Word) (n w : Nat) (c : Config)

@[simp] theorem deliver_config : (deliver x s).config = s.config := rfl
@[simp] theorem deliver_ctrl : (deliver x s).ctrl = s.ctrl := rfl
@[simp] theorem deliver_inbox : (deliver x s).inbox = s.inbox := rfl
@[simp] theorem deliver_outbox : (deliver x s).outbox = s.outbox ++ [x] := rfl

@[simp] theorem respond_config : (respond code crcf r s).config = s.config := rfl
@[simp] theorem respond_ctrl : (respond code crcf r s).ctrl = s.ctrl := rfl
@[simp] theorem respond_inbox : (respond code crcf r s).inbox = s.inbox := rfl
@[simp] theorem respond_outbox : (respond code crcf r s).outbox = s.outbox ++ [⟨statusByte code crcf, r⟩] := rfl

@[simp] theorem raiseError_config : (raiseError code crcf s).config = s.config := rfl
@[simp] theorem raiseError_ctrl : (raiseError code crcf s).ctrl = s.ctrl := rfl
@[simp] theorem raiseError_inbox : (raiseError code crcf s).inbox = s.inbox := rfl
@[simp] theorem raiseError_outbox : (raiseError code crcf s).outbox = s.outbox ++ [⟨statusByte code crcf, 0⟩] := rfl

@[simp] theorem writeCtrl_config : (writeCtrl v s).config = s.config := rfl
@[simp] theorem writeCtrl_ctrl : (writeCtrl v s).ctrl = v &&& ctrlImplemented := rfl
@[simp] theorem writeCtrl_inbox : (writeCtrl v s).inbox = s.inbox := rfl
@[simp] theorem writeCtrl_outbox : (writeCtrl v s).outbox = s.outbox := rfl

@[simp] theorem applyReset_config : (applyReset s).config = s.config := rfl
@[simp] theorem applyReset_ctrl : (applyReset s).ctrl = ctrlAtReset s.config := rfl
@[simp] theorem applyReset_inbox : (applyReset s).inbox = s.inbox := rfl
@[simp] theorem applyReset_outbox : (applyReset s).outbox = s.outbox := rfl

@[simp] theorem withFetchWord_config : (s.withFetchWord n w).config = s.config := rfl
@[simp] theorem withFetchWord_ctrl : (s.withFetchWord n w).ctrl = s.ctrl := rfl
@[simp] theorem withFetchWord_inbox :
    (s.withFetchWord n w).inbox = .request (BitVec.ofNat 32 (w % 2 ^ n)) :: s.inbox := rfl
@[simp] theorem withFetchWord_outbox : (s.withFetchWord n w).outbox = s.outbox := rfl

@[simp] theorem afterAnswer_config : (afterAnswer s v r).config = s.config := rfl
@[simp] theorem afterAnswer_ctrl : (afterAnswer s v r).ctrl = s.ctrl := rfl
@[simp] theorem afterAnswer_inbox : (afterAnswer s v r).inbox = s.inbox := rfl
@[simp] theorem afterAnswer_outbox : (afterAnswer s v r).outbox = s.outbox ++ [⟨v, r⟩] := rfl

@[simp] theorem resetWith_config : (State.resetWith c).config = c := rfl
@[simp] theorem resetWith_ctrl : (State.resetWith c).ctrl = ctrlAtReset c := rfl
@[simp] theorem resetWith_inbox : (State.resetWith c).inbox = [] := rfl
@[simp] theorem resetWith_outbox : (State.resetWith c).outbox = [] := rfl

/-! The folds over the host's events, one event at a time. -/

variable (ctrl : Byte) (req : Word) (ev : HostEvent) (rest : List HostEvent)

@[simp] theorem requestCount_nil : requestCount [] = 0 := rfl
@[simp] theorem requestCount_request : requestCount (.request req :: rest) = requestCount rest + 1 := rfl
@[simp] theorem requestCount_reset : requestCount (.reset :: rest) = requestCount rest := rfl

@[simp] theorem ctrlAfter_nil : ctrlAfter c ctrl [] = ctrl := rfl
@[simp] theorem ctrlAfter_cons : ctrlAfter c ctrl (ev :: rest) = ctrlAfter c (ctrlAfterEvent c ctrl ev) rest := rfl

end Machine
end Sys2Proof
end

