-- ==== Sys2Proof/Laws/Ops.lean ====
section
/-! SUPPORT. One lemma per shared operation that says everything it can do; cited instead of unfolding it. -/

namespace Sys2Proof
namespace Machine

/-! ## CTRL -/

theorem readCtrl_eq (s : State) : readCtrl s = if s.ctrl.getLsbD 0 then 0x01 else 0x00 := by
  have h : ∀ c : Byte, c &&& 0x01 = if c.getLsbD 0 then 0x01 else 0x00 := by decide +kernel
  exact h s.ctrl

theorem strict_eq (s : State) : strict s = s.ctrl.getLsbD 0 := by
  rw [strict, readCtrl_eq]
  cases s.ctrl.getLsbD 0 <;> rfl

theorem ctrlAtReset_legal (c : Config) : ctrlAtReset c = 0x00 ∨ ctrlAtReset c = 0x01 := by
  unfold ctrlAtReset
  cases c.strictAtReset <;> simp

/-! ## Responses -/

theorem statusByte_ok (crcf : Bool) : statusByte .ok crcf = if crcf then 0x10 else 0x00 := by
  cases crcf <;> decide

theorem statusByte_invalidArgument : statusByte .invalidArgument false = 0x04 := by decide

theorem statusByte_checksumMismatch : statusByte .checksumMismatch true = 0x18 := by decide

theorem respond_eq_afterAnswer (code : ErrorCode) (crcf : Bool) (r : Word) (s : State) :
    respond code crcf r s = afterAnswer s (statusByte code crcf) r := rfl

/-- A successful answer with CRCF = 0. -/
theorem respond_ok_eq (r : Word) (s : State) : respond .ok false r s = afterAnswer s 0x00 r := by
  rw [respond_eq_afterAnswer, statusByte_ok]
  rfl

theorem raiseError_eq_afterAnswer (code : ErrorCode) (crcf : Bool) (s : State) :
    raiseError code crcf s = afterAnswer s (statusByte code crcf) 0 := rfl

theorem answerUndecodable_eq (e : DecodeError) (s : State) : answerUndecodable e s = afterAnswer s 0x04 0 := by
  cases e
  exact congrArg (afterAnswer s · 0) statusByte_invalidArgument

/-- Processing a reading: a good one, a bad one in soft-fail mode, a bad one in strict mode. -/
theorem processReading_eq (value : Half) (crc : Byte) (convert : Half → Word) (s : State) :
    processReading value crc convert s =
      if validate value crc then afterAnswer s 0x00 (convert (maskValue value))
      else if s.ctrl.getLsbD 0 then afterAnswer s 0x18 0
      else afterAnswer s 0x10 (convert (maskValue value)) := by
  unfold processReading
  rw [strict_eq]
  cases validate value crc <;> cases s.ctrl.getLsbD 0 <;>
    simp [crcFlag, respond_eq_afterAnswer, raiseError_eq_afterAnswer, statusByte_ok, statusByte_checksumMismatch]

/-! ## The step -/

theorem step_idle {s : State} (h : s.inbox = []) : step s = .next s := by
  simp [step, takeEvent, h, idle]

theorem step_reset {s : State} {rest : List HostEvent} (h : s.inbox = .reset :: rest) :
    step s = .next (applyReset { s with inbox := rest }) := by
  simp [step, takeEvent, h]

theorem step_ok {s : State} {req : Word} {rest : List HostEvent} {i : Instr} (h : s.inbox = .request req :: rest)
    (hd : decode req = .ok i) : step s = exec i { s with inbox := rest } := by
  simp [step, takeEvent, h, hd]

theorem step_error {s : State} {req : Word} {rest : List HostEvent} {e : DecodeError}
    (h : s.inbox = .request req :: rest) (hd : decode req = .error e) :
    step s = .next (afterAnswer { s with inbox := rest } 0x04 0) := by
  simp [step, takeEvent, h, hd, answerUndecodable_eq]

/-- A run of one step more, by its first step. -/
theorem run_succ {s t : State} (h : step s = .next t) (n : Nat) :
    Host.Core.run Sys2Proof.core (n + 1) s = Host.Core.run Sys2Proof.core n t := by
  simp [Host.Core.run, show Sys2Proof.core.step s = .next t from h]

/-! ## What a request alone is answered -/

theorem responseTo_error {c : Config} {ctrl : Byte} {req : Word} {e : DecodeError} (hd : decode req = .error e) :
    responseTo c ctrl req = some ⟨0x04, 0⟩ := by
  simp [responseTo, hd]

theorem responseTo_ok {c : Config} {ctrl : Byte} {req : Word} {i : Instr} {t : State} (hd : decode req = .ok i)
    (he : exec i { config := c, ctrl := ctrl, inbox := [], outbox := [] } = .next t) :
    responseTo c ctrl req = t.outbox.head? := by
  simp [responseTo, hd, he]

/-! ## Fields of a request word -/

theorem getLsbD_reqWord (opc : Byte) (a : Half) (b : Byte) (k : Nat) :
    (reqWord opc a b).getLsbD k =
      if k < 8 then b.getLsbD k else if k < 24 then a.getLsbD (k - 8) else opc.getLsbD (k - 24) := by
  unfold reqWord
  rw [BitVec.getLsbD_append, BitVec.getLsbD_append]
  by_cases h1 : k < 8
  · simp [h1]
  · by_cases h2 : k < 24
    · simp [h1, h2, show k - 8 < 16 by omega]
    · simp [h1, h2, show ¬ k - 8 < 16 by omega, show k - 8 - 16 = k - 24 by omega]

@[simp] theorem opcOf_reqWord (opc : Byte) (a : Half) (b : Byte) : opcOf (reqWord opc a b) = opc := by
  apply BitVec.eq_of_getLsbD_eq
  intro k hk
  simp [opcOf, getLsbD_reqWord, hk, show ¬ 24 + k < 8 by omega]

@[simp] theorem fieldB_reqWord (opc : Byte) (a : Half) (b : Byte) : fieldB (reqWord opc a b) = b := by
  apply BitVec.eq_of_getLsbD_eq
  intro k hk
  simp [fieldB, getLsbD_reqWord, hk]

@[simp] theorem fieldA_reqWord (opc : Byte) (a : Half) (b : Byte) : fieldA (reqWord opc a b) = a := by
  apply BitVec.eq_of_getLsbD_eq
  intro k hk
  simp [fieldA, getLsbD_reqWord, hk, show 8 + k < 24 by omega]

theorem opc_mask_eq (w : Word) : w &&& 0xFF000000 = reqWord (opcOf w) 0 0 := by
  apply BitVec.eq_of_getLsbD_eq
  intro k hk
  rw [getLsbD_reqWord]
  have hm : ∀ k < 32, (0xFF000000 : Word).getLsbD k = decide (24 ≤ k) := by decide
  rw [BitVec.getLsbD_and, hm k hk]
  by_cases h1 : k < 8
  · simp [h1, show ¬ 24 ≤ k by omega]
  · by_cases h2 : k < 24
    · simp [h1, h2]
    · simp [h1, h2, opcOf, show k - 24 < 8 by omega, show 24 + (k - 24) = k by omega,
        show 24 ≤ k by omega]

/-- A row of the operation map is selected by the operation code alone (30_encoding.md R37). -/
theorem rowSelects_iff (w : Word) (opc : Byte) (name : String) (build : Word → Instr) :
    rowSelects w ⟨name, reqWord opc 0 0, 0xFF000000, build⟩ = (opcOf w == opc) := by
  unfold rowSelects
  rw [opc_mask_eq, Bool.eq_iff_iff, beq_iff_eq, beq_iff_eq]
  constructor
  · intro h
    simpa using congrArg opcOf h
  · intro h
    rw [h]

end Machine
end Sys2Proof
end

