-- ==== Sys2Proof/Laws/Decode.lean ====
section
/-! SUPPORT. The decoder by its operation code: the one lemma later proofs cite instead of searching the operation map. -/

namespace Sys2Proof
namespace Machine

/-- What the decoder answers from a list of rows. -/
def decodeRows (w : Word) (rows : List OpRow) : Except DecodeError Instr :=
  match rows.find? (rowSelects w) with
  | some row => .ok (row.build w)
  | none => .error (.reservedOpc (opcOf w))

/-- One row at a time, by the operation code alone. -/
theorem decodeRows_cons (w : Word) (opc : Byte) (name : String) (build : Word → Instr) (rows : List OpRow) :
    decodeRows w (⟨name, reqWord opc 0 0, 0xFF000000, build⟩ :: rows) =
      if opcOf w = opc then .ok (build w) else decodeRows w rows := by
  unfold decodeRows
  rw [List.find?_cons, rowSelects_iff]
  by_cases h : opcOf w = opc
  · simp [h]
  · simp [h, beq_false_of_ne h]

theorem decodeRows_nil (w : Word) : decodeRows w [] = .error (.reservedOpc (opcOf w)) := rfl

/-- The operation map with each pattern as the operation code over zero fields. -/
theorem operationMap_eq : operationMap =
    [ ⟨"RDCTL", reqWord 0x00 0 0, 0xFF000000, fun _ => .rdctl⟩,
      ⟨"WRCTL", reqWord 0x01 0 0, 0xFF000000, fun r => .wrctl (fieldB r)⟩,
      ⟨"CRCV", reqWord 0x10 0 0, 0xFF000000, fun r => .crcv (fieldA r) (fieldB r)⟩,
      ⟨"MASK", reqWord 0x11 0 0, 0xFF000000, fun r => .mask (fieldA r)⟩,
      ⟨"CHK", reqWord 0x12 0 0, 0xFF000000, fun r => .chk (fieldA r) (fieldB r)⟩,
      ⟨"GRES", reqWord 0x20 0 0, 0xFF000000, fun r => .gres (fieldB r)⟩,
      ⟨"SRES", reqWord 0x21 0 0, 0xFF000000, fun r => .sres (fieldB r) (fieldAL r)⟩,
      ⟨"GHTR", reqWord 0x22 0 0, 0xFF000000, fun r => .ghtr (fieldB r)⟩,
      ⟨"SHTR", reqWord 0x23 0 0, 0xFF000000, fun r => .shtr (fieldB r) (fieldA0 r)⟩,
      ⟨"GVDD", reqWord 0x24 0 0, 0xFF000000, fun r => .gvdd (fieldB r)⟩,
      ⟨"HDEC", reqWord 0x25 0 0, 0xFF000000, fun r => .hdec (fieldB r)⟩,
      ⟨"HENC", reqWord 0x26 0 0, 0xFF000000, fun r => .henc (fieldB r)⟩,
      ⟨"CVT", reqWord 0x30 0 0, 0xFF000000, fun r => .cvt (fieldA r)⟩,
      ⟨"CVH", reqWord 0x31 0 0, 0xFF000000, fun r => .cvh (fieldA r)⟩,
      ⟨"MEAT", reqWord 0x32 0 0, 0xFF000000, fun r => .meat (fieldA r) (fieldB r)⟩,
      ⟨"MEAH", reqWord 0x33 0 0, 0xFF000000, fun r => .meah (fieldA r) (fieldB r)⟩ ] := rfl

/-- What the decoder answers, by the operation code (30_encoding.md R42, R44). -/
theorem decode_eq (w : Word) : decode w =
    if opcOf w = 0x00 then .ok .rdctl
    else if opcOf w = 0x01 then .ok (.wrctl (fieldB w))
    else if opcOf w = 0x10 then .ok (.crcv (fieldA w) (fieldB w))
    else if opcOf w = 0x11 then .ok (.mask (fieldA w))
    else if opcOf w = 0x12 then .ok (.chk (fieldA w) (fieldB w))
    else if opcOf w = 0x20 then .ok (.gres (fieldB w))
    else if opcOf w = 0x21 then .ok (.sres (fieldB w) (fieldAL w))
    else if opcOf w = 0x22 then .ok (.ghtr (fieldB w))
    else if opcOf w = 0x23 then .ok (.shtr (fieldB w) (fieldA0 w))
    else if opcOf w = 0x24 then .ok (.gvdd (fieldB w))
    else if opcOf w = 0x25 then .ok (.hdec (fieldB w))
    else if opcOf w = 0x26 then .ok (.henc (fieldB w))
    else if opcOf w = 0x30 then .ok (.cvt (fieldA w))
    else if opcOf w = 0x31 then .ok (.cvh (fieldA w))
    else if opcOf w = 0x32 then .ok (.meat (fieldA w) (fieldB w))
    else if opcOf w = 0x33 then .ok (.meah (fieldA w) (fieldB w))
    else .error (.reservedOpc (opcOf w)) := by
  change decodeRows w operationMap = _
  rw [operationMap_eq]
  simp only [decodeRows_cons, decodeRows_nil]

/-- Operation code 0x01 is WRCTL of its B, and no other code is a WRCTL (30_encoding.md R42). -/
theorem decode_eq_wrctl_iff (w : Word) (data : Byte) :
    decode w = .ok (.wrctl data) ↔ opcOf w = 0x01 ∧ data = fieldB w := by
  rw [decode_eq]
  constructor
  · intro h
    by_cases h1 : opcOf w = 0x01
    · rw [h1] at h
      cases h
      exact ⟨h1, rfl⟩
    · have next_row {p : Prop} [Decidable p] {i : Instr} {x : Except DecodeError Instr}
          (hx : (if p then .ok i else x) = .ok (.wrctl data)) (hi : i ≠ .wrctl data) : x = .ok (.wrctl data) := by
        split at hx
        · exact absurd (Except.ok.inj hx) hi
        · exact hx
      replace h := next_row h (fun e => nomatch e)
      rw [if_neg h1] at h
      iterate 14 replace h := next_row h (fun e => nomatch e)
      cases h
  · rintro ⟨h1, rfl⟩
    rw [h1]
    rfl

/-- REQ.AL of a word whose A is given as two bytes (R38, R71). -/
@[simp] theorem fieldAL_reqWord (opc hi lo b : Byte) : fieldAL (reqWord opc (halfOf hi lo) b) = lo := by
  apply BitVec.eq_of_getLsbD_eq
  intro k hk
  rw [fieldAL, BitVec.getLsbD_extractLsb', getLsbD_reqWord, if_neg (by omega), if_pos (by omega), halfOf,
    BitVec.getLsbD_append, if_pos (by omega)]
  simp [hk]

/-- A[0] of a word whose A is given as A[15:1] and A[0] (R39, R73). -/
@[simp] theorem fieldA0_reqWord (opc b : Byte) (hi : BitVec 15) (lo : BitVec 1) :
    fieldA0 (reqWord opc (halfOfBit hi lo) b) = lo := by
  apply BitVec.eq_of_getLsbD_eq
  intro k hk
  rw [fieldA0, BitVec.getLsbD_extractLsb', getLsbD_reqWord, if_neg (by omega), if_pos (by omega), halfOfBit,
    BitVec.getLsbD_append, if_pos (by omega)]
  simp [show k = 0 by omega]

end Machine
end Sys2Proof
end

