-- ==== Sys2Proof/Laws/PerInstr.lean ====
section
/-! SUPPORT. Per operation: its encoding is a request word as an assembler writes it, with an assigned operation code and zero in
every field the syntax does not set (30_encoding.md R47). -/

namespace Sys2Proof
namespace Laws
namespace EncodesCanonical

open Sys2Proof.Machine

def Statement (i : Instr) : Prop := i.wellFormed = true ∧ canonicalWord (encode i) = true

/-- A word is canonical when its code is assigned and each bit outside the syntax mask is zero. -/
theorem canonical_reqWord {opc : Byte} {a : Half} {b : Byte} (hr : reservedOpc opc = false)
    (hb : ∀ k < 32, (syntaxMask opc).getLsbD k = false →
      (if k < 8 then b.getLsbD k else if k < 24 then a.getLsbD (k - 8) else opc.getLsbD (k - 24)) = false) :
    canonicalWord (reqWord opc a b) = true := by
  unfold canonicalWord
  rw [opcOf_reqWord, hr, Bool.not_false, Bool.true_and, beq_iff_eq]
  apply BitVec.eq_of_getLsbD_eq
  intro k hk
  rw [BitVec.getLsbD_and, BitVec.getLsbD_not, getLsbD_reqWord]
  cases hm : (syntaxMask opc).getLsbD k
  · simp [hb k hk hm]
  · simp

/-- A code whose syntax sets every bit. -/
theorem all_bits_set (k : Nat) (hk : k < 32) : ¬ (0xFFFFFFFF : Word).getLsbD k = false := by
  revert k
  decide

/-- A[15:8] is zero in the A that SRES assembles. -/
theorem halfOf_high_clear (code : Byte) {k : Nat} (h : 16 ≤ k ∧ k < 24) : (halfOf 0x00 code).getLsbD (k - 8) = false := by
  rw [halfOf, BitVec.getLsbD_append, if_neg (by omega)]
  exact BitVec.getLsbD_zero

/-- A[15:1] is zero in the A that SHTR assembles. -/
theorem halfOfBit_high_clear (en : BitVec 1) {k : Nat} (h : 9 ≤ k ∧ k < 24) :
    (halfOfBit 0 en).getLsbD (k - 8) = false := by
  rw [halfOfBit, BitVec.getLsbD_append, if_neg (by omega)]
  exact BitVec.getLsbD_zero

/-- The operations whose syntax sets B alone. -/
theorem canonical_byte {opc : Byte} (hr : reservedOpc opc = false) (hm : syntaxMask opc = 0xFF0000FF) (b : Byte) :
    canonicalWord (reqWord opc 0x0000 b) = true := by
  refine canonical_reqWord hr fun k hk h => ?_
  rw [hm] at h
  have : 8 ≤ k ∧ k < 24 := by revert h; revert k; decide
  rw [if_neg (by omega), if_pos this.2]
  exact BitVec.getLsbD_zero

theorem rdctl : Statement .rdctl := by
  unfold Statement
  decide +kernel

theorem wrctl (data : Byte) : Statement (.wrctl data) := ⟨rfl, canonical_byte (by decide) rfl data⟩

theorem crcv (value : Half) (crc : Byte) : Statement (.crcv value crc) :=
  ⟨rfl, canonical_reqWord (by decide) fun k hk hm => absurd hm (all_bits_set k hk)⟩

theorem mask (value : Half) : Statement (.mask value) := by
  refine ⟨rfl, canonical_reqWord (by decide) fun k hk hm => ?_⟩
  have : k < 8 := by revert hm; revert k; decide
  simp [this]

theorem chk (value : Half) (crc : Byte) : Statement (.chk value crc) :=
  ⟨rfl, canonical_reqWord (by decide) fun k hk hm => absurd hm (all_bits_set k hk)⟩

theorem gres (reg : Byte) : Statement (.gres reg) := ⟨rfl, canonical_byte (by decide) rfl reg⟩

theorem sres (reg code : Byte) : Statement (.sres reg code) := by
  refine ⟨rfl, canonical_reqWord (by decide) fun k hk hm => ?_⟩
  have : 16 ≤ k ∧ k < 24 := by revert hm; revert k; decide
  rw [if_neg (by omega), if_pos this.2]
  exact halfOf_high_clear code this

theorem ghtr (reg : Byte) : Statement (.ghtr reg) := ⟨rfl, canonical_byte (by decide) rfl reg⟩

theorem shtr (reg : Byte) (en : BitVec 1) : Statement (.shtr reg en) := by
  refine ⟨rfl, canonical_reqWord (by decide) fun k hk hm => ?_⟩
  have : 9 ≤ k ∧ k < 24 := by revert hm; revert k; decide
  rw [if_neg (by omega), if_pos this.2]
  exact halfOfBit_high_clear en this

theorem gvdd (reg : Byte) : Statement (.gvdd reg) := ⟨rfl, canonical_byte (by decide) rfl reg⟩

theorem hdec (byte : Byte) : Statement (.hdec byte) := ⟨rfl, canonical_byte (by decide) rfl byte⟩

theorem henc (value : Byte) : Statement (.henc value) := ⟨rfl, canonical_byte (by decide) rfl value⟩

theorem cvt (raw : Half) : Statement (.cvt raw) := by
  refine ⟨rfl, canonical_reqWord (by decide) fun k hk hm => ?_⟩
  have : k < 8 := by revert hm; revert k; decide
  simp [this]

theorem cvh (raw : Half) : Statement (.cvh raw) := by
  refine ⟨rfl, canonical_reqWord (by decide) fun k hk hm => ?_⟩
  have : k < 8 := by revert hm; revert k; decide
  simp [this]

theorem meat (value : Half) (crc : Byte) : Statement (.meat value crc) :=
  ⟨rfl, canonical_reqWord (by decide) fun k hk hm => absurd hm (all_bits_set k hk)⟩

theorem meah (value : Half) (crc : Byte) : Statement (.meah value crc) :=
  ⟨rfl, canonical_reqWord (by decide) fun k hk hm => absurd hm (all_bits_set k hk)⟩

end EncodesCanonical
end Laws
end Sys2Proof
end

