-- ==== Sys2Proof/Tests/Slice0.lean ====
section
/-! SUPPORT. The model's own tests. Every expected value is transcribed from spec/: the table of 30_encoding.md R47, the vectors of
95_test_vectors.md (parts named at each group), or the rule named. The last part gives, for each obligation with hypotheses, a
concrete case that meets them. -/

open Sys2Proof Sys2Proof.Machine

namespace Sys2Proof
namespace Tests

/-- A small state: the default parameters, a given CTRL, a list of host events, nothing answered yet. -/
def start (ctrl : Byte) (events : List HostEvent) : State := { State.reset with ctrl := ctrl, inbox := events }

/-- The same under the stepwise mode. -/
def startStepwise (ctrl : Byte) (events : List HostEvent) : State :=
  { start ctrl events with config := { Config.default with tempNumericMode := .f32Stepwise } }

/-- CTRL and the responses after one step. -/
def outcome (s : State) : Option (Byte × List Response) :=
  match step s with
  | .next t => some (t.ctrl, t.outbox)
  | .fault _ => none
  | .refused _ => none

/-- CTRL and the response after one request word. -/
def served (ctrl : Byte) (req : Word) : Option (Byte × List Response) := outcome (start ctrl [.request req])

/-! ## What is refused (WellFormed) -/

/-- The first and last reserved code of each gap (R44), and the assigned codes beside them. -/
theorem test_reserved_codes_refused :
    ([0x02, 0x0F, 0x13, 0x1F, 0x27, 0x2F, 0x34, 0x3F, 0x40, 0xFF].all fun c => reservedOpc (BitVec.ofNat 8 c)) = true ∧
      ([0x00, 0x01, 0x10, 0x12, 0x20, 0x26, 0x30, 0x33].any fun c => reservedOpc (BitVec.ofNat 8 c)) = false := by decide

/-- A word with a bit set that the syntax leaves zero (R47), one for each shape of syntaxMask, and a reserved word. -/
theorem test_noncanonical_words_refused :
    ([0x00000001, 0x01000100, 0x11000001, 0x21010000, 0x23000200, 0x20000100, 0x02000000].any fun w =>
      canonicalWord (BitVec.ofNat 32 w)) = false := by decide

theorem test_line_without_operand_refused : assemble ⟨.wrctl, []⟩ = none := by decide
theorem test_line_with_spare_operand_refused : assemble ⟨.rdctl, [0]⟩ = none := by decide
theorem test_line_with_wide_literal_refused :
    assemble ⟨.gres, [0x100]⟩ = none ∧ assemble ⟨.shtr, [0xBB, 2]⟩ = none ∧ assemble ⟨.cvt, [0x10000]⟩ = none := by decide

/-! ## Decoding: the words of R47's table, written out from the encoding lines -/

theorem test_decode_rdctl : decode 0x00000000 = .ok .rdctl := by decide
theorem test_decode_wrctl : decode 0x01000001 = .ok (.wrctl 0x01) := by decide
theorem test_decode_crcv : decode 0x10683A7C = .ok (.crcv 0x683A 0x7C) := by decide
theorem test_decode_mask : decode 0x11FFFF00 = .ok (.mask 0xFFFF) := by decide
theorem test_decode_chk : decode 0x12683A7C = .ok (.chk 0x683A 0x7C) := by decide
theorem test_decode_gres : decode 0x200000BB = .ok (.gres 0xBB) := by decide
theorem test_decode_sres : decode 0x2100813A = .ok (.sres 0x3A 0x81) := by decide
theorem test_decode_ghtr : decode 0x220000BF = .ok (.ghtr 0xBF) := by decide
theorem test_decode_shtr : decode 0x230001BB = .ok (.shtr 0xBB 1) := by decide
theorem test_decode_gvdd : decode 0x2400007A = .ok (.gvdd 0x7A) := by decide
theorem test_decode_hdec : decode 0x250000FF = .ok (.hdec 0xFF) := by decide
theorem test_decode_henc : decode 0x260000A7 = .ok (.henc 0xA7) := by decide
theorem test_decode_cvt : decode 0x30FFFF00 = .ok (.cvt 0xFFFF) := by decide
theorem test_decode_cvh : decode 0x31800000 = .ok (.cvh 0x8000) := by decide
theorem test_decode_meat : decode 0x32683A7C = .ok (.meat 0x683A 0x7C) := by decide
theorem test_decode_meah : decode 0x334E856B = .ok (.meah 0x4E85 0x6B) := by decide
theorem test_decode_reserved : decode 0x1F683A7C = .error (.reservedOpc 0x1F) := by decide

/-- The assembler lines of R47 and R48. -/
theorem test_assemble_sres : assemble ⟨.sres, [0x3A, 0x81]⟩ = some 0x2100813A := by decide
theorem test_assemble_shtr : assemble ⟨.shtr, [0xBB, 1]⟩ = some 0x230001BB := by decide
theorem test_assemble_strict_on_off :
    assemble ⟨.strictOn, []⟩ = some 0x01000001 ∧ assemble ⟨.strictOff, []⟩ = some 0x01000000 := by decide
theorem test_assemble_word : assemble ⟨.dotWord, [0xFF123456]⟩ = some 0xFF123456 := by decide

/-! ## SYS and reserved codes (95_test_vectors.md part 7) -/

theorem test_rdctl_ignores_operands : served 0x01 0x00ABCDEF = some (0x01, [⟨0x00, 0x00000001⟩]) := by decide
theorem test_wrctl_uses_bit_0 : served 0x01 0x010000FE = some (0x00, [⟨0x00, 0x00000000⟩]) := by decide
theorem test_wrctl_drops_high_bits : served 0x00 0x010000FF = some (0x01, [⟨0x00, 0x00000001⟩]) := by decide
theorem test_reserved_answers : served 0x01 0xFF123456 = some (0x01, [⟨0x04, 0x00000000⟩]) := by decide

/-! ## CRC (part 2) -/

theorem test_rem24_single_bit : rem24 0xE83A7C = 0x000023 ∧ rem24 0x683B7C = 0x000031 := by decide +kernel
theorem test_crc8_values : crc8 0xABCD = 0xEE ∧ crc8 0x0080 = 0x7A ∧ crc8Serial 0x1234 = 0xB6 := by decide +kernel
theorem test_crcv_valid : served 0x01 0x10683A7C = some (0x01, [⟨0x00, 0x00000001⟩]) := by decide +kernel
theorem test_crcv_low_byte_compared : served 0x01 0x10000001 = some (0x01, [⟨0x10, 0x00000000⟩]) := by decide +kernel
theorem test_mask_ignores_b : served 0x00 0x110003FF = some (0x00, [⟨0x00, 0x00000000⟩]) := by decide
theorem test_mask_all_ones : served 0x00 0x11FFFF00 = some (0x00, [⟨0x00, 0x0000FFFC⟩]) := by decide
theorem test_chk_soft_fail : served 0x00 0x12683B7C = some (0x00, [⟨0x10, 0x00006838⟩]) := by decide +kernel
theorem test_chk_strict : served 0x01 0x12FFFF2C = some (0x01, [⟨0x18, 0x00000000⟩]) := by decide +kernel

/-! ## REG (part 3) -/

theorem test_gres_ignores_a : served 0x00 0x20FFFFBB = some (0x00, [⟨0x00, 0x00000081⟩]) := by decide
theorem test_sres_drops_old_bits : served 0x00 0x2100807F = some (0x00, [⟨0x00, 0x000000FE⟩]) := by decide
theorem test_sres_drops_code_bits : served 0x00 0x21007E00 = some (0x00, [⟨0x00, 0x00000000⟩]) := by decide
theorem test_ghtr_is_one_bit : served 0x00 0x22000004 = some (0x00, [⟨0x00, 0x00000001⟩]) := by decide
theorem test_shtr_uses_a0 : served 0x00 0x23FFFE3E = some (0x00, [⟨0x00, 0x0000003A⟩]) := by decide
theorem test_shtr_keeps_vdd : served 0x00 0x2300017A = some (0x00, [⟨0x00, 0x0000007E⟩]) := by decide
theorem test_gvdd_low : served 0x00 0x24000040 = some (0x00, [⟨0x00, 0x00000001⟩]) := by decide
theorem test_gvdd_ok : served 0x00 0x240000BF = some (0x00, [⟨0x00, 0x00000000⟩]) := by decide
theorem test_hdec_drops_high_nibble : served 0x00 0x250000F0 = some (0x00, [⟨0x00, 0x00000000⟩]) := by decide
theorem test_henc_masks : served 0x00 0x260000A7 = some (0x00, [⟨0x00, 0x00000007⟩]) := by decide

/-! ## CNV (parts 4 to 6) -/

theorem test_cvt_near_zero : served 0x00 0x30444100 = some (0x00, [⟨0x00, 0xB8C147AE⟩]) := by decide +kernel
theorem test_cvt_greatest : served 0x00 0x30FFFF00 = some (0x00, [⟨0x00, 0x4300DE09⟩]) := by decide +kernel
theorem test_cvt_stepwise :
    tempStepwise 0x4441 = 0xB8C00000 ∧ tempStepwise 0x0000 = 0xC23B6666 ∧ tempStepwise 0xFFFF = 0x4300DE08 := by
  decide +kernel
theorem test_cvh_least : served 0x00 0x31000000 = some (0x00, [⟨0x00, 0xC0C00000⟩]) := by decide +kernel
theorem test_cvh_not_clamped : served 0x00 0x31D91700 = some (0x00, [⟨0x00, 0x42C80076⟩]) := by decide +kernel
theorem test_meat_masks_first : served 0x00 0x32444100 = some (0x00, [⟨0x10, 0xBB35C28F⟩]) := by decide +kernel
theorem test_meat_stepwise :
    outcome (startStepwise 0x01 [.request 0x32FFFF2D]) = some (0x01, [⟨0x00, 0x4300DBFA⟩]) := by decide +kernel
theorem test_meah_strict_good : served 0x01 0x334E856B = some (0x01, [⟨0x00, 0x420159D0⟩]) := by decide +kernel
theorem test_meah_strict_bad : served 0x01 0x334E856A = some (0x01, [⟨0x18, 0x00000000⟩]) := by decide +kernel

/-- The reset event between requests (part 9, P5, line 3). -/
theorem test_reset_event : outcome (start 0x01 [.reset, .request 0]) = some (0x00, []) := by decide

/-! ## A case that meets the hypotheses, for each obligation that has some -/

theorem wit_EncodeOfDecode : decode 0x21AB813A = .ok (.sres 0x3A 0x81) := by decide

theorem wit_UnreadBitsHaveNoEffect :
    ((0x01FFFF03 : Word) ^^^ 0x01000001) &&& readMask (opcOf 0x01FFFF03) = 0 ∧
      ((0x21AB7E3A : Word) ^^^ 0x2100003A) &&& readMask (opcOf 0x21AB7E3A) = 0 := by decide

theorem wit_AssembledLineDecodes :
    (AsmLine.mk .sres [0x3A, 0x81]).mnemonic ≠ .dotWord ∧ assemble ⟨.sres, [0x3A, 0x81]⟩ = some 0x2100813A := by decide

theorem wit_StepRunsDecodedRequest :
    (start 0x00 []).inbox = [] ∧ (start 0x00 [.request 0x2000003A]).inbox = .request 0x2000003A :: [] ∧
      decode 0x2000003A = .ok (.gres 0x3A) ∧ (Instr.gres 0x3A).wellFormed = true := by decide

theorem wit_ReservedCodeAnswersInvalidArgument :
    (start 0x01 [.request 0x02000000]).inbox = .request 0x02000000 :: [] ∧ reservedOpc (opcOf 0x02000000) = true := by decide

theorem wit_ResetEventSetsCtrlOnly : (start 0x01 [.reset]).inbox = .reset :: [] := by decide

theorem wit_StepKeepsInvariant :
    (start 0x01 [.request 0]).Inv ∧ step (start 0x01 [.request 0]) = .next (afterAnswer (start 0x01 []) 0x00 1) :=
  ⟨by decide, rfl⟩

theorem wit_OnlyWrctlAndResetChangeCtrl :
    (step (start 0x00 [.request 0x01000001]) = .next (afterAnswer (start 0x01 []) 0x00 1) ∧
      (afterAnswer (start 0x01 []) 0x00 1).ctrl ≠ (start 0x00 [.request 0x01000001]).ctrl) ∧
    step (start 0x01 [.reset]) = .next (start 0x00 []) ∧ (start 0x00 []).ctrl ≠ (start 0x01 [.reset]).ctrl :=
  ⟨⟨rfl, by decide⟩, rfl, by decide⟩

theorem wit_OperationFrame :
    exec (.gres 0x3A) (start 0x01 []) = .next (afterAnswer (start 0x01 []) 0x00 0) ∧
      ∀ data, Instr.gres 0x3A ≠ .wrctl data :=
  ⟨rfl, fun _ h => nomatch h⟩

theorem wit_ResponseDependsOnRequestAndCtrl :
    (start 0x01 []).ctrl = (afterAnswer (start 0x01 [.reset]) 0x10 5).ctrl ∧
      (start 0x01 []).config.tempNumericMode = (afterAnswer (start 0x01 [.reset]) 0x10 5).config.tempNumericMode := by decide

theorem wit_StrictGovernsThreeOperations_bad :
    (governedByStrict (.meat 0x683B 0x7C) = true ∧ readingOf (.meat 0x683B 0x7C) = some (0x683B, 0x7C)) ∧
      validate 0x683B 0x7C = false ∧ (0xFE : Byte).getLsbD 0 = false ∧ (0x01 : Byte).getLsbD 0 = true := by decide +kernel

theorem wit_StrictGovernsThreeOperations_good :
    Instr.chk 0x683A 0x7C ≠ .rdctl ∧ governedByStrict (.chk 0x683A 0x7C) = true ∧
      ∀ p, readingOf (.chk 0x683A 0x7C) = some p → validate p.1 p.2 = true := by
  refine ⟨by decide, rfl, fun p h => ?_⟩
  cases h
  decide +kernel

theorem wit_WrctlSeenByNextRequest :
    (start 0x00 [.request (encode (.wrctl 0x01)), .request (encode .rdctl)]).inbox =
      .request (encode (.wrctl 0x01)) :: .request (encode .rdctl) :: [] := rfl

theorem wit_ErrorResponseWritesNothing :
    step (start 0x01 [.request 0x40000000]) = .next (afterAnswer (start 0x01 []) 0x04 0) ∧
      (afterAnswer (start 0x01 []) 0x04 0).outbox = (start 0x01 [.request 0x40000000]).outbox ++ [⟨0x04, 0⟩] ∧
      stCode 0x04 ≠ 0 :=
  ⟨rfl, rfl, by decide⟩

theorem wit_CrcfExactlyOnFalseVerdict : (start 0x00 [.request 0x10683B7C]).inbox = .request 0x10683B7C :: [] := rfl

theorem wit_ChecksumMismatchExactlyInStrict :
    governedByStrict (.meah 0x4E85 0x6A) = true ∧ (start 0x00 []).ctrl.getLsbD 0 = false ∧
      readingOf (.meah 0x4E85 0x6A) = some (0x4E85, 0x6A) ∧ validate 0x4E85 0x6A = false := by decide +kernel

/-- A request after a WRCTL, an answered request and a reset: place 2, and CTRL 0x00 again. -/
theorem wit_RunAnswersEveryRequest :
    (start 0x00 [.request 0x01000001, .request 0, .reset, .request 0]).inbox =
        [.request 0x01000001, .request 0, .reset] ++ .request 0 :: [] ∧
      requestCount [.request 0x01000001, .request 0, .reset] = 2 ∧
      ctrlAfter Config.default 0x00 [.request 0x01000001, .request 0, .reset] = 0x00 := by decide

/-- Each request is answered with the CTRL it finds (20_memory.md R34, 43_system.md R90, R91). -/
theorem test_run_answers_in_order :
    Host.Core.run Sys2Proof.core 3 (start 0x00 [.request 0, .request 0x01000001, .request 0]) =
        .next { start 0x01 [] with outbox := [⟨0x00, 0⟩, ⟨0x00, 1⟩, ⟨0x00, 1⟩] } ∧
      responseTo Config.default 0x01 0 = some ⟨0x00, 1⟩ := ⟨rfl, rfl⟩

theorem wit_RunCtrlIsLastWrite :
    Host.Core.run Sys2Proof.core 2 (start 0x00 [.request 0x01000001, .reset]) =
      .next (afterAnswer (start 0x00 []) 0x00 1) := rfl

theorem wit_RdctlAnswersCtrl : (start 0x01 []).Inv := by decide

theorem wit_SingleBitErrorsDetected : 23 < 24 ∧ 0 < 24 ∧ rem24 0x683A7C = 0 := by decide +kernel

theorem wit_ShortBurstsDetected : 16 ≤ 16 ∧ (0xFF : Byte) ≠ 0 ∧ rem24 0xFFFF2D = 0 := by decide +kernel

theorem wit_OddWeightErrorsDetected :
    ((List.range 24).filter fun k => (0x000007 : Row).getLsbD k).length % 2 = 1 ∧ rem24 0x683A7C = 0 := by decide +kernel

/-- Both clauses of CHK, MEAT and MEAH: a good reading, a bad one in soft-fail mode, a bad one in strict mode. -/
theorem wit_UnderPolicy :
    validate 0x683A 0x7C = true ∧ (validate 0x683B 0x7C = false ∧ (start 0x00 []).ctrl.getLsbD 0 = false) ∧
      (start 0x01 []).ctrl.getLsbD 0 = true := by decide +kernel

theorem wit_RegisterCodecLaws : (0x0F : Byte).toNat ≤ 15 ∧ (0x00 : Byte).toNat ≤ 15 := by decide

theorem wit_RoundingRefinesRational :
    (0 < (Frac.mk 4101 100).den ∧ (2 : ℚ) ^ (-126 : ℤ) ≤ |fracRat ⟨4101, 100⟩| ∧ |fracRat ⟨4101, 100⟩| < 2 ^ 128) ∧
      fracRat ⟨0, 1⟩ = 0 ∧ (2 : ℚ) ^ (-126 : ℤ) ≤ |fracRat ⟨-1, 2 ^ 126⟩| ∧
      1 ≤ exponentOf 0x42240A3D ∧ exponentOf 0x7F7FFFFF ≤ 254 := by
  refine ⟨⟨by decide, ?_, ?_⟩, by simp [fracRat], ?_, by decide, by decide⟩ <;> norm_num [fracRat]

theorem wit_ReadingIsCheckThenConvert : stCode 0x10 = 0 ∧ stCode 0x18 ≠ 0 := by decide

theorem wit_ConversionsStrictlyIncrease : (0x4441 : Half).toNat < (0x4442 : Half).toNat := by decide

theorem wit_SentinelNeverAnswered :
    step (start 0x00 [.request 0x11FFFF00]) = .next (afterAnswer (start 0x00 []) 0x00 0xFFFC) ∧
      (afterAnswer (start 0x00 []) 0x00 0xFFFC).outbox =
        (start 0x00 [.request 0x11FFFF00]).outbox ++ [⟨0x00, 0xFFFC⟩] :=
  ⟨rfl, rfl⟩

end Tests
end Sys2Proof
end

/-! SUPPORT. What an operation can do to the state, said once for all of them, and the step's totality (O13). -/

namespace Sys2Proof
namespace Machine

/-- Processing a reading is one answer, whatever the verdict and the mode. -/
theorem processReading_answers (value : Half) (crc : Byte) (convert : Half → Word) (s : State) :
    ∃ st r, processReading value crc convert s = afterAnswer s st r := by
  rw [processReading_eq]
  split
  · exact ⟨_, _, rfl⟩
  · split
    · exact ⟨_, _, rfl⟩
    · exact ⟨_, _, rfl⟩

/-- WRCTL writes CTRL, then answers what CTRL now reads as (R91). -/
theorem exec_wrctl (data : Byte) (s : State) :
    exec (.wrctl data) s =
      .next (afterAnswer (writeCtrl (wrctlNew data) s) 0x00 (resultByte (readCtrl (writeCtrl (wrctlNew data) s)))) :=
  congrArg Host.Outcome.next (respond_ok_eq _ _)

/-- Every operation but WRCTL is one answer and nothing else (R18, R31). -/
theorem exec_answers {i : Instr} (hi : ∀ data, i ≠ .wrctl data) (s : State) :
    ∃ st r, exec i s = .next (afterAnswer s st r) := by
  have reading (value : Half) (crc : Byte) (convert : Half → Word) :
      ∃ st r, (.next (processReading value crc convert s) : Result) = .next (afterAnswer s st r) := by
    obtain ⟨st, r, h⟩ := processReading_answers value crc convert s
    exact ⟨st, r, congrArg Host.Outcome.next h⟩
  cases i with
  | wrctl data => exact absurd rfl (hi data)
  | chk value crc => exact reading value crc resultHalf
  | meat value crc => exact reading value crc (temp32 s.config.tempNumericMode)
  | meah value crc => exact reading value crc hum32
  | rdctl | crcv | mask | gres | sres | ghtr | shtr | gvdd | hdec | henc | cvt | cvh =>
    exact ⟨_, _, congrArg Host.Outcome.next (respond_eq_afterAnswer _ _ _ _)⟩

/-- Every operation ends in a next state: none faults, none refuses (R96). -/
theorem exec_next (i : Instr) (s : State) : ∃ t, exec i s = .next t := by
  by_cases hi : ∃ data, i = .wrctl data
  · obtain ⟨data, rfl⟩ := hi
    exact ⟨_, exec_wrctl data s⟩
  · obtain ⟨st, r, h⟩ := exec_answers (fun data hd => hi ⟨data, hd⟩) s
    exact ⟨_, h⟩

/-- Settles O13: an idle step, a reset, an operation and a reserved code each end in a next state. -/
theorem stepAlwaysAnswers : Obligations.StepAlwaysAnswers := by
  intro s
  match h : s.inbox with
  | [] => exact ⟨s, step_idle h⟩
  | .reset :: rest => exact ⟨_, step_reset h⟩
  | .request req :: rest =>
    match hd : decode req with
    | .error e => exact ⟨_, step_error h hd⟩
    | .ok i =>
      rw [step_ok h hd]
      exact exec_next i _

end Machine
end Sys2Proof

/-! SUPPORT. What an operation answers and the CTRL it leaves, and one step on one host event; from these the obligations on the
state, CTRL and CRCF (10_state.md). -/

namespace Sys2Proof
namespace Machine

/-! ## The verdict an operation evaluates, and the response that reports it -/

/-- The operation evaluates a check and its verdict is false (R16). -/
def BadReading (i : Instr) : Prop := ∃ p, readingOf i = some p ∧ validate p.1 p.2 = false

theorem badReading_iff {i : Instr} {value : Half} {crc : Byte} (h : readingOf i = some (value, crc)) :
    BadReading i ↔ validate value crc = false := by
  simp [BadReading, h]

theorem not_badReading_of_none {i : Instr} (h : readingOf i = none) : ¬ BadReading i := by
  simp [BadReading, h]

/-- A response the operation may give: a legal one, whose CRCF reports the verdict. -/
def Reports (i : Instr) (x : Response) : Prop := x.legal ∧ (stCrcf x.st = true ↔ BadReading i)

theorem reports_ok {i : Instr} (h : ¬ BadReading i) (r : Word) : Reports i ⟨0x00, r⟩ :=
  ⟨.inl rfl, iff_of_false (show ¬ stCrcf 0x00 = true by decide) h⟩

theorem reports_flagged {i : Instr} (h : BadReading i) (r : Word) : Reports i ⟨0x10, r⟩ :=
  ⟨.inr (.inl rfl), iff_of_true (show stCrcf 0x10 = true by decide) h⟩

theorem reports_mismatch {i : Instr} (h : BadReading i) : Reports i ⟨0x18, 0⟩ :=
  ⟨.inr (.inr (.inr ⟨rfl, rfl⟩)), iff_of_true (by decide) h⟩

/-- The answer under the policy reports the verdict in both modes (R95). -/
theorem processReading_reports {i : Instr} {value : Half} {crc : Byte} (h : readingOf i = some (value, crc))
    (convert : Half → Word) (s : State) :
    ∃ st r, processReading value crc convert s = afterAnswer s st r ∧ Reports i ⟨st, r⟩ := by
  rw [processReading_eq]
  split
  case isTrue good => exact ⟨_, _, rfl, reports_ok (by simp [badReading_iff h, good]) _⟩
  case isFalse bad =>
    have hb : BadReading i := (badReading_iff h).mpr (eq_false_of_ne_true bad)
    split
    · exact ⟨_, _, rfl, reports_mismatch hb⟩
    · exact ⟨_, _, rfl, reports_flagged hb _⟩

/-- The bare verdict of CRCV sets CRCF like the policy does in soft-fail mode (R63). -/
theorem exec_crcv_reports (value : Half) (crc : Byte) (s : State) :
    ∃ st r, exec (.crcv value crc) s = .next (afterAnswer s st r) ∧ Reports (.crcv value crc) ⟨st, r⟩ := by
  refine ⟨statusByte .ok (crcFlag (validate value crc)), _, rfl, ?_⟩
  have hb : BadReading (.crcv value crc) ↔ validate value crc = false := badReading_iff rfl
  rw [statusByte_ok]
  cases hv : validate value crc
  · exact reports_flagged (hb.mpr hv) _
  · exact reports_ok (by simp [hb, hv]) _

/-! ## Every operation -/

/-- The CTRL an operation leaves: WRCTL's data in the implemented bit, for any other the CTRL it found (R18). -/
def ctrlAfterInstr : Instr → Byte → Byte
  | .wrctl data, _ => wrctlNew data &&& ctrlImplemented
  | _, ctrl => ctrl

theorem ctrlAfterInstr_of_ne_wrctl {i : Instr} (hi : ∀ data, i ≠ .wrctl data) (ctrl : Byte) :
    ctrlAfterInstr i ctrl = ctrl := by
  cases i with
  | wrctl data => exact absurd rfl (hi data)
  | _ => rfl

/-- An operation writes its CTRL, then gives one answer that reports its verdict, and does nothing else. -/
theorem exec_reports (i : Instr) (s : State) :
    ∃ st r, exec i s = .next (afterAnswer { s with ctrl := ctrlAfterInstr i s.ctrl } st r) ∧ Reports i ⟨st, r⟩ := by
  have reading {i : Instr} {value : Half} {crc : Byte} (hr : readingOf i = some (value, crc)) (convert : Half → Word) :
      ∃ st r, (.next (processReading value crc convert s) : Result) = .next (afterAnswer s st r) ∧
        Reports i ⟨st, r⟩ := by
    obtain ⟨st, r, h, hx⟩ := processReading_reports hr convert s
    exact ⟨st, r, congrArg Host.Outcome.next h, hx⟩
  cases i with
  | wrctl data => exact ⟨_, _, exec_wrctl data s, reports_ok (not_badReading_of_none rfl) _⟩
  | crcv value crc => exact exec_crcv_reports value crc s
  | chk value crc => exact reading rfl resultHalf
  | meat value crc => exact reading rfl (temp32 s.config.tempNumericMode)
  | meah value crc => exact reading rfl hum32
  | rdctl | mask | gres | sres | ghtr | shtr | gvdd | hdec | henc | cvt | cvh =>
    exact ⟨_, _, congrArg Host.Outcome.next (respond_ok_eq _ _), reports_ok (not_badReading_of_none rfl) _⟩

/-! ## One host event -/

/-- WRCTL's write is B[0], bits 7:1 zero (R17, R91). -/
theorem wrctlNew_fieldB (req : Word) :
    wrctlNew (fieldB req) &&& ctrlImplemented = if req.getLsbD 0 then 0x01 else 0x00 := by
  have hbit : ∀ b : Byte, wrctlNew b &&& ctrlImplemented = if b.getLsbD 0 then 0x01 else 0x00 := by decide +kernel
  have hB : (fieldB req).getLsbD 0 = req.getLsbD 0 := by simp [fieldB]
  rw [hbit, hB]

theorem ctrlAfterEvent_request (c : Config) (ctrl : Byte) (req : Word) :
    ctrlAfterEvent c ctrl (.request req) =
      if opcOf req = 0x01 then (if req.getLsbD 0 then 0x01 else 0x00) else ctrl := rfl

theorem ctrlAfterInstr_of_decode {req : Word} {i : Instr} (hd : decode req = .ok i) (c : Config) (ctrl : Byte) :
    ctrlAfterInstr i ctrl = ctrlAfterEvent c ctrl (.request req) := by
  rw [ctrlAfterEvent_request]
  split
  case isTrue h =>
    have hw : decode req = .ok (.wrctl (fieldB req)) := (decode_eq_wrctl_iff req _).mpr ⟨h, rfl⟩
    obtain rfl : i = .wrctl (fieldB req) := Except.ok.inj (hd.symm.trans hw)
    exact wrctlNew_fieldB req
  case isFalse h =>
    refine ctrlAfterInstr_of_ne_wrctl (fun data hi => h ?_) ctrl
    exact ((decode_eq_wrctl_iff req data).mp (hi ▸ hd)).1

theorem ctrlAfterEvent_of_decode_error {req : Word} {e : DecodeError} (hd : decode req = .error e) (c : Config)
    (ctrl : Byte) : ctrlAfterEvent c ctrl (.request req) = ctrl := by
  refine if_neg fun h => ?_
  have hw := (decode_eq_wrctl_iff req (fieldB req)).mpr ⟨h, rfl⟩
  cases hd.symm.trans hw

theorem ctrlAfterEvent_legal {c : Config} {ctrl : Byte} (h : ctrl = 0x00 ∨ ctrl = 0x01) (ev : HostEvent) :
    ctrlAfterEvent c ctrl ev = 0x00 ∨ ctrlAfterEvent c ctrl ev = 0x01 := by
  cases ev with
  | reset => exact ctrlAtReset_legal c
  | request req =>
    rw [ctrlAfterEvent_request]
    split
    · exact (ite_eq_or_eq ..).symm
    · exact h

/-- The state after an event is served: CTRL as the event leaves it, the event taken, its answers delivered. -/
def afterEvent (s : State) (ev : HostEvent) (rest : List HostEvent) (answers : List Response) : State :=
  { s with ctrl := ctrlAfterEvent s.config s.ctrl ev, inbox := rest, outbox := s.outbox ++ answers }

/-- A request has one answer, legal, with CRCF set exactly on a false verdict (R16, R40). -/
theorem step_request {s : State} {req : Word} {rest : List HostEvent} (h : s.inbox = .request req :: rest) :
    ∃ x, step s = .next (afterEvent s (.request req) rest [x]) ∧ x.legal ∧
      (stCrcf x.st = true ↔ ∃ i, decode req = .ok i ∧ BadReading i) := by
  match hd : decode req with
  | .error e =>
    refine ⟨⟨0x04, 0⟩, ?_, .inr (.inr (.inl ⟨rfl, rfl⟩)), iff_of_false (by decide) (by simp)⟩
    rw [step_error h hd, afterEvent, ctrlAfterEvent_of_decode_error hd]
    rfl
  | .ok i =>
    obtain ⟨st, r, he, hlegal, hcrcf⟩ := exec_reports i { s with inbox := rest }
    refine ⟨⟨st, r⟩, ?_, hlegal, by simpa using hcrcf⟩
    rw [step_ok h hd, he, afterEvent, ← ctrlAfterInstr_of_decode hd]
    rfl

/-- An event leaves its CTRL, adds only legal responses and changes nothing else. -/
theorem step_event {s : State} {ev : HostEvent} {rest : List HostEvent} (h : s.inbox = ev :: rest) :
    ∃ answers, step s = .next (afterEvent s ev rest answers) ∧ ∀ x ∈ answers, x.legal := by
  cases ev with
  | reset =>
    refine ⟨[], ?_, by simp⟩
    rw [step_reset h, afterEvent, List.append_nil]
    rfl
  | request req =>
    obtain ⟨x, hs, hx, -⟩ := step_request h
    exact ⟨[x], hs, by simpa using hx⟩

/-- What a step can do: nothing when nothing is presented, or serve the next event. -/
theorem step_cases {s t : State} (hs : step s = .next t) :
    (s.inbox = [] ∧ t = s) ∨
      ∃ ev rest answers, s.inbox = ev :: rest ∧ t = afterEvent s ev rest answers ∧ ∀ x ∈ answers, x.legal := by
  match h : s.inbox with
  | [] => exact .inl ⟨rfl, Host.Outcome.next.inj (hs.symm.trans (step_idle h))⟩
  | ev :: rest =>
    obtain ⟨answers, he, hlegal⟩ := step_event h
    exact .inr ⟨ev, rest, answers, rfl, Host.Outcome.next.inj (hs.symm.trans he), hlegal⟩

/-! ## The obligations -/

/-- Settles O15: the CTRL an event leaves and the answers it adds are both legal. -/
theorem stepKeepsInvariant : Obligations.StepKeepsInvariant := by
  intro s t hinv hs
  obtain ⟨hctrl, hout⟩ := hinv
  obtain ⟨-, rfl⟩ | ⟨ev, rest, answers, -, rfl, hlegal⟩ := step_cases hs
  · exact ⟨hctrl, hout⟩
  · exact ⟨ctrlAfterEvent_legal hctrl ev, List.forall_mem_append.mpr ⟨hout, hlegal⟩⟩

/-- Settles O16, by the event the step serves. -/
theorem onlyWrctlAndResetChangeCtrl : Obligations.OnlyWrctlAndResetChangeCtrl := by
  intro s t hs hne
  obtain ⟨-, rfl⟩ | ⟨ev, rest, answers, hin, rfl, -⟩ := step_cases hs
  · exact absurd rfl hne
  · refine ⟨rest, ?_⟩
    cases ev with
    | reset => exact .inl hin
    | request req =>
      have hop : opcOf req = 0x01 := by
        by_contra hop
        exact hne (if_neg hop)
      exact .inr ⟨req, hop, hin⟩

/-- Settles O17: an operation changes CTRL as `ctrlAfterInstr` says, adds its answer, and changes nothing else. -/
theorem operationFrame : Obligations.OperationFrame := by
  intro i s t ht
  obtain ⟨st, r, he, -⟩ := exec_reports i s
  obtain rfl := Host.Outcome.next.inj (ht.symm.trans he)
  exact ⟨rfl, rfl, ⟨_, rfl⟩, fun hi => ctrlAfterInstr_of_ne_wrctl hi s.ctrl⟩

/-- Settles O23: the one answer to a request reports the verdict of the operation it decodes to. -/
theorem crcfExactlyOnFalseVerdict : Obligations.CrcfExactlyOnFalseVerdict := by
  intro s req rest h
  obtain ⟨x, hs, -, hcrcf⟩ := step_request h
  refine ⟨_, x, hs, rfl, hcrcf.trans ?_⟩
  simp only [BadReading, exists_and_left]

/-- A run over a list of events leaves the CTRL of their fold. -/
theorem run_ctrl (events : List HostEvent) {s t : State} (hin : s.inbox = events)
    (hrun : Host.Core.run Sys2Proof.core events.length s = .next t) : t.ctrl = ctrlAfter s.config s.ctrl events := by
  induction events generalizing s with
  | nil =>
    cases hrun
    rfl
  | cons ev rest ih =>
    obtain ⟨answers, he, -⟩ := step_event hin
    rw [List.length_cons, run_succ he] at hrun
    exact ih rfl hrun

/-- Settles O26, by induction on what the host presents. -/
theorem runCtrlIsLastWrite : Obligations.RunCtrlIsLastWrite := fun s _ hrun => run_ctrl s.inbox rfl hrun

/-- Settles O12, by the two values of STRICT_AT_RESET. -/
theorem resetLeavesSoftFail : Obligations.ResetLeavesSoftFail := by
  refine ⟨rfl, fun c => ?_⟩
  rw [resetWith_ctrl, ctrlAtReset]
  cases c.strictAtReset <;> rfl

/-- Settles O14: the reset CTRL is legal and nothing is answered yet. -/
theorem resetMeetsInvariant : Obligations.ResetMeetsInvariant :=
  fun c => ⟨ctrlAtReset_legal c, by simp⟩

end Machine
end Sys2Proof

/-! SUPPORT. What a transaction answers, said as a function of the request and CTRL, and from it what a run answers; the obligations
on the request port and the order of requests (20_memory.md). -/

namespace Sys2Proof
namespace Machine

/-! ## The request word -/

/-- R27, R49: the row as a number. -/
theorem toNat_rowOf (value : Half) (crc : Byte) : (rowOf value crc).toNat = value.toNat * 256 + crc.toNat := by
  rw [rowOf, BitVec.toNat_append, ← Nat.shiftLeft_add_eq_or_of_lt crc.isLt, Nat.shiftLeft_eq]

/-- A and B are adjacent fields of REQ (R38), so their row is one field. -/
theorem rowOf_fields (w : Word) : rowOf (fieldA w) (fieldB w) = w.extractLsb' 0 24 :=
  BitVec.extractLsb'_append_extractLsb'_eq_extractLsb' rfl

/-- The code of an encoded operation selects its own row, and its fields are the operands (R47). -/
theorem decode_encode (i : Instr) : decode (encode i) = .ok i := by
  rw [decode_eq]
  cases i <;> simp [encode]

/-- A presented word is served as it is. -/
theorem withFetchWord_inbox_word (s : State) (w : Word) :
    (s.withFetchWord 32 w.toNat).inbox = .request w :: s.inbox := by
  rw [withFetchWord_inbox, Nat.mod_eq_of_lt w.isLt, BitVec.ofNat_toNat, BitVec.setWidth_eq]

/-! ## The answer of an operation -/

/-- WRCTL leaves its data in bit 0 of CTRL and zero above it (R17, R91). -/
theorem toNat_wrctl_ctrl (data ctrl : Byte) : (ctrlAfterInstr (.wrctl data) ctrl).toNat = data.toNat % 2 := by
  simp [ctrlAfterInstr, wrctlNew, ctrlImplemented]

/-- An operation finds nothing to change in the CTRL that it left. -/
theorem ctrlAfterInstr_idem (i : Instr) (ctrl : Byte) :
    ctrlAfterInstr i (ctrlAfterInstr i ctrl) = ctrlAfterInstr i ctrl := by
  cases i <;> rfl

/-- The answer to a reading depends on no more of the state than CTRL. -/
theorem processReading_determined (value : Half) (crc : Byte) (convert : Half → Word) (ctrl : Byte) :
    ∃ x : Response, ∀ s : State, s.ctrl = ctrl → processReading value crc convert s = afterAnswer s x.st x.r := by
  cases hv : validate value crc
  · cases hb : ctrl.getLsbD 0
    · exact ⟨⟨0x10, convert (maskValue value)⟩, fun s hs => by rw [processReading_eq, hv, hs, hb]; rfl⟩
    · exact ⟨⟨0x18, 0⟩, fun s hs => by rw [processReading_eq, hv, hs, hb]; rfl⟩
  · exact ⟨⟨0x00, convert (maskValue value)⟩, fun s _ => by rw [processReading_eq, hv]; rfl⟩

/-- One answer serves every state with this numeric mode in which the operation leaves the CTRL it leaves from `ctrl`. -/
def AnswerDetermined (i : Instr) (mode : TempNumericMode) (ctrl : Byte) : Prop :=
  ∃ x : Response, ∀ s : State, s.config.tempNumericMode = mode → ctrlAfterInstr i s.ctrl = ctrlAfterInstr i ctrl →
    exec i s = .next { s with ctrl := ctrlAfterInstr i ctrl, outbox := s.outbox ++ [x] }

/-- An operation that keeps CTRL has to be answered alike only where CTRL is the same. -/
theorem answerDetermined_of_keeps_ctrl {i : Instr} {mode : TempNumericMode} {ctrl : Byte} (x : Response)
    (hi : ∀ c, ctrlAfterInstr i c = c)
    (he : ∀ s : State, s.config.tempNumericMode = mode → s.ctrl = ctrl → exec i s = .next (afterAnswer s x.st x.r)) :
    AnswerDetermined i mode ctrl := by
  refine ⟨x, fun s hmode hctrl => ?_⟩
  rw [hi, hi] at hctrl
  rw [he s hmode hctrl, hi, ← hctrl]
  rfl

theorem answerDetermined_of_reading {i : Instr} {mode : TempNumericMode} {ctrl : Byte} {value : Half} {crc : Byte}
    (convert : Half → Word) (hi : ∀ c, ctrlAfterInstr i c = c)
    (he : ∀ s : State, s.config.tempNumericMode = mode → exec i s = .next (processReading value crc convert s)) :
    AnswerDetermined i mode ctrl := by
  obtain ⟨x, hx⟩ := processReading_determined value crc convert ctrl
  exact answerDetermined_of_keeps_ctrl x hi fun s hmode hctrl => by rw [he s hmode, hx s hctrl]

/-- The answer depends only on the operation, the numeric mode and the CTRL that the operation leaves (R34): for WRCTL that is its
own data, for any other operation the CTRL it found. -/
theorem exec_determined (i : Instr) (mode : TempNumericMode) (ctrl : Byte) : AnswerDetermined i mode ctrl := by
  cases i with
  | wrctl data =>
    exact ⟨⟨0x00, resultByte (wrctlNew data &&& ctrlImplemented &&& ctrlImplemented)⟩, fun s _ _ => exec_wrctl data s⟩
  | rdctl =>
    exact answerDetermined_of_keeps_ctrl ⟨0x00, resultByte (ctrl &&& ctrlImplemented)⟩ (fun _ => rfl)
      fun _ _ hctrl => by rw [← hctrl]; rfl
  | cvt raw =>
    exact answerDetermined_of_keeps_ctrl ⟨0x00, temp32 mode raw⟩ (fun _ => rfl) fun _ hmode _ => by rw [← hmode]; rfl
  | crcv value crc =>
    exact answerDetermined_of_keeps_ctrl
      ⟨statusByte .ok (crcFlag (validate value crc)), resultBool (validate value crc)⟩ (fun _ => rfl) fun _ _ _ => rfl
  | meat value crc =>
    exact answerDetermined_of_reading (temp32 mode) (fun _ => rfl) fun _ hmode => by rw [← hmode]; rfl
  | chk value crc => exact answerDetermined_of_reading resultHalf (fun _ => rfl) fun _ _ => rfl
  | meah value crc => exact answerDetermined_of_reading hum32 (fun _ => rfl) fun _ _ => rfl
  | mask | gres | sres | ghtr | shtr | gvdd | hdec | henc | cvh =>
    exact answerDetermined_of_keeps_ctrl ⟨0x00, _⟩ (fun _ => rfl) fun _ _ _ => rfl

/-! ## The answers of a run -/

/-- A request presented alone has an answer, and a legal one. -/
theorem responseTo_some (c : Config) (ctrl : Byte) (req : Word) : ∃ x, responseTo c ctrl req = some x ∧ x.legal := by
  match hd : decode req with
  | .error e => exact ⟨_, responseTo_error hd, .inr (.inr (.inl ⟨rfl, rfl⟩))⟩
  | .ok i =>
    obtain ⟨st, r, he, hlegal, -⟩ := exec_reports i { config := c, ctrl := ctrl, inbox := [], outbox := [] }
    exact ⟨⟨st, r⟩, responseTo_ok hd he, hlegal⟩

/-- A request is answered as it would be alone, whatever was answered before and whatever else is presented. -/
theorem step_responseTo {s : State} {req : Word} {rest : List HostEvent} (h : s.inbox = .request req :: rest) {x : Response}
    (hx : responseTo s.config s.ctrl req = some x) : step s = .next (afterEvent s (.request req) rest [x]) := by
  match hd : decode req with
  | .error e =>
    obtain rfl := Option.some.inj ((responseTo_error hd).symm.trans hx)
    rw [step_error h hd, afterEvent, ctrlAfterEvent_of_decode_error hd]
    rfl
  | .ok i =>
    obtain ⟨y, hy⟩ := exec_determined i s.config.tempNumericMode s.ctrl
    obtain rfl : y = x :=
      Option.some.inj ((responseTo_ok hd (hy ⟨s.config, s.ctrl, [], []⟩ rfl rfl)).symm.trans hx)
    rw [step_ok h hd, afterEvent, ← ctrlAfterInstr_of_decode hd]
    exact hy { s with inbox := rest } rfl rfl

/-- The responses one host event is owed, with the CTRL it finds. -/
def eventAnswers (c : Config) (ctrl : Byte) : HostEvent → List Response
  | .reset => []
  | .request req => (responseTo c ctrl req).toList

/-- The responses a list of host events is owed: each request is answered alone, with the CTRL that the events before it leave. -/
def answersTo (c : Config) (ctrl : Byte) : List HostEvent → List Response
  | [] => []
  | ev :: rest => eventAnswers c ctrl ev ++ answersTo c (ctrlAfterEvent c ctrl ev) rest

theorem step_eventAnswers {s : State} {ev : HostEvent} {rest : List HostEvent} (h : s.inbox = ev :: rest) :
    step s = .next (afterEvent s ev rest (eventAnswers s.config s.ctrl ev)) := by
  cases ev with
  | reset =>
    rw [step_reset h, afterEvent, eventAnswers, List.append_nil]
    rfl
  | request req =>
    obtain ⟨x, hx, -⟩ := responseTo_some s.config s.ctrl req
    rw [step_responseTo h hx, eventAnswers, hx, Option.toList_some]

theorem answersTo_append (c : Config) (ctrl : Byte) (before rest : List HostEvent) :
    answersTo c ctrl (before ++ rest) = answersTo c ctrl before ++ answersTo c (ctrlAfter c ctrl before) rest := by
  induction before generalizing ctrl with
  | nil => rfl
  | cons ev before ih => simp [answersTo, ih]

theorem length_answersTo (c : Config) (ctrl : Byte) (events : List HostEvent) :
    (answersTo c ctrl events).length = requestCount events := by
  induction events generalizing ctrl with
  | nil => rfl
  | cons ev rest ih =>
    cases ev with
    | reset => simp [answersTo, eventAnswers, ih]
    | request req =>
      obtain ⟨x, hx, -⟩ := responseTo_some c ctrl req
      simp [answersTo, eventAnswers, ih, hx, Nat.add_comm]

theorem answersTo_legal (c : Config) (ctrl : Byte) (events : List HostEvent) : ∀ x ∈ answersTo c ctrl events, x.legal := by
  induction events generalizing ctrl with
  | nil => simp [answersTo]
  | cons ev rest ih =>
    refine List.forall_mem_append.mpr ⟨?_, ih _⟩
    cases ev with
    | reset => simp [eventAnswers]
    | request req =>
      obtain ⟨x, hx, hlegal⟩ := responseTo_some c ctrl req
      simpa [eventAnswers, hx] using hlegal

/-- The response to the request after `before` stands at the place that counts the requests in `before`. -/
theorem answersTo_getElem? (c : Config) (ctrl : Byte) (before : List HostEvent) (req : Word) (rest : List HostEvent) :
    (answersTo c ctrl (before ++ .request req :: rest))[requestCount before]? =
      responseTo c (ctrlAfter c ctrl before) req := by
  obtain ⟨x, hx, -⟩ := responseTo_some c (ctrlAfter c ctrl before) req
  rw [answersTo_append, ← length_answersTo c ctrl before, List.getElem?_append_right le_rfl, Nat.sub_self, answersTo,
    eventAnswers, hx]
  rfl

/-- A run over everything presented delivers the responses owed and leaves the CTRL of the events' fold. -/
theorem run_answersTo (events : List HostEvent) {s : State} (hin : s.inbox = events) :
    Host.Core.run Sys2Proof.core events.length s =
      .next { s with
        ctrl := ctrlAfter s.config s.ctrl events
        inbox := []
        outbox := s.outbox ++ answersTo s.config s.ctrl events } := by
  induction events generalizing s with
  | nil =>
    cases s
    cases hin
    simp [answersTo, Host.Core.run]
  | cons ev rest ih =>
    rw [List.length_cons, run_succ (step_eventAnswers hin), ih rfl, answersTo, ← List.append_assoc]
    rfl

/-! ## The obligations -/

/-- Settles O6: the row as a number, and as one field of REQ. -/
theorem crcRowIsRequestLowBits : Obligations.CrcRowIsRequestLowBits := ⟨toNat_rowOf, rowOf_fields⟩

/-- Settles O9: the step's three cases, the last through the encoding's decoding. -/
theorem stepRunsDecodedRequest : Obligations.StepRunsDecodedRequest :=
  fun s => ⟨step_idle, fun _ _ _ h hd _ => step_ok h hd,
    fun i => step_ok (withFetchWord_inbox_word s (encode i)) (decode_encode i)⟩

/-- Settles O18: equal CTRLs are left equal, and the answer depends on that CTRL and the mode alone. -/
theorem responseDependsOnRequestAndCtrl : Obligations.ResponseDependsOnRequestAndCtrl := by
  intro i s1 s2 hctrl hmode
  obtain ⟨x, hx⟩ := exec_determined i s1.config.tempNumericMode s1.ctrl
  exact ⟨x, _, hx s1 rfl rfl, hx s2 hmode.symm (congrArg _ hctrl.symm)⟩

/-- Settles O20: the WRCTL leaves its data in CTRL, and the second request is the next step's. -/
theorem wrctlSeenByNextRequest : Obligations.WrctlSeenByNextRequest := by
  intro s data i rest h
  have hstep := (step_ok h (decode_encode (.wrctl data))).trans (exec_wrctl data _)
  exact ⟨_, hstep, toNat_wrctl_ctrl data s.ctrl, rfl, step_ok rfl (decode_encode i)⟩

/-- Settles O21: the second time the operation finds the CTRL that it leaves, on which alone its answer depends. -/
theorem operationsAreIdempotent : Obligations.OperationsAreIdempotent := by
  intro i s
  obtain ⟨x, hx⟩ := exec_determined i s.config.tempNumericMode s.ctrl
  exact ⟨x, _, hx s rfl rfl, hx _ rfl (ctrlAfterInstr_idem i s.ctrl)⟩

/-- Settles O25: the run delivers `answersTo` of what is presented. -/
theorem runAnswersEveryRequest : Obligations.RunAnswersEveryRequest := by
  intro s
  refine ⟨_, answersTo s.config s.ctrl s.inbox, run_answersTo s.inbox rfl, rfl, rfl, rfl, length_answersTo ..,
    answersTo_legal _ _ _, fun before req rest h => ?_⟩
  obtain ⟨x, hx, -⟩ := responseTo_some s.config (ctrlAfter s.config s.ctrl before) req
  exact ⟨x, by rw [h, answersTo_getElem?, hx], hx⟩

end Machine
end Sys2Proof

/-! SUPPORT. The operation map as a table of words and operations, what a word becomes under a mask, and from these the obligations on
the encoding (30_encoding.md). -/

namespace Sys2Proof
namespace Machine

/-! ## The operation codes -/

/-- The 16 operation codes of R42. -/
def operationCodes : List Byte :=
  [0x00#8, 0x01#8, 0x10#8, 0x11#8, 0x12#8, 0x20#8, 0x21#8, 0x22#8, 0x23#8, 0x24#8, 0x25#8, 0x26#8, 0x30#8, 0x31#8, 0x32#8,
    0x33#8]

/-- The ranges of R44 leave out exactly the codes of R42. -/
theorem reservedOpc_iff (opc : Byte) : reservedOpc opc = true ↔ opc ∉ operationCodes := by
  revert opc
  decide +kernel

theorem decode_of_reservedOpc {w : Word} (h : reservedOpc (opcOf w) = true) :
    decode w = .error (.reservedOpc (opcOf w)) := by
  rw [reservedOpc_iff] at h
  simp only [operationCodes, List.mem_cons, List.not_mem_nil, or_false, not_or] at h
  simp [decode_eq, h]

/-- The rows of R42: the word selects the operation by its code, and the operands are its fields. -/
inductive DecodesTo (w : Word) : Instr → Prop
  | rdctl (h : opcOf w = 0x00) : DecodesTo w .rdctl
  | wrctl (h : opcOf w = 0x01) : DecodesTo w (.wrctl (fieldB w))
  | crcv (h : opcOf w = 0x10) : DecodesTo w (.crcv (fieldA w) (fieldB w))
  | mask (h : opcOf w = 0x11) : DecodesTo w (.mask (fieldA w))
  | chk (h : opcOf w = 0x12) : DecodesTo w (.chk (fieldA w) (fieldB w))
  | gres (h : opcOf w = 0x20) : DecodesTo w (.gres (fieldB w))
  | sres (h : opcOf w = 0x21) : DecodesTo w (.sres (fieldB w) (fieldAL w))
  | ghtr (h : opcOf w = 0x22) : DecodesTo w (.ghtr (fieldB w))
  | shtr (h : opcOf w = 0x23) : DecodesTo w (.shtr (fieldB w) (fieldA0 w))
  | gvdd (h : opcOf w = 0x24) : DecodesTo w (.gvdd (fieldB w))
  | hdec (h : opcOf w = 0x25) : DecodesTo w (.hdec (fieldB w))
  | henc (h : opcOf w = 0x26) : DecodesTo w (.henc (fieldB w))
  | cvt (h : opcOf w = 0x30) : DecodesTo w (.cvt (fieldA w))
  | cvh (h : opcOf w = 0x31) : DecodesTo w (.cvh (fieldA w))
  | meat (h : opcOf w = 0x32) : DecodesTo w (.meat (fieldA w) (fieldB w))
  | meah (h : opcOf w = 0x33) : DecodesTo w (.meah (fieldA w) (fieldB w))

theorem exists_decodesTo {w : Word} (h : opcOf w ∈ operationCodes) : ∃ i, DecodesTo w i := by
  simp only [operationCodes, List.mem_cons, List.not_mem_nil, or_false] at h
  rcases h with h | h | h | h | h | h | h | h | h | h | h | h | h | h | h | h
  exacts [⟨_, .rdctl h⟩, ⟨_, .wrctl h⟩, ⟨_, .crcv h⟩, ⟨_, .mask h⟩, ⟨_, .chk h⟩, ⟨_, .gres h⟩, ⟨_, .sres h⟩, ⟨_, .ghtr h⟩,
    ⟨_, .shtr h⟩, ⟨_, .gvdd h⟩, ⟨_, .hdec h⟩, ⟨_, .henc h⟩, ⟨_, .cvt h⟩, ⟨_, .cvh h⟩, ⟨_, .meat h⟩, ⟨_, .meah h⟩]

theorem decode_of_decodesTo {w : Word} {i : Instr} (hi : DecodesTo w i) : decode w = .ok i := by
  cases hi with
  | rdctl h | wrctl h | crcv h | mask h | chk h | gres h | sres h | ghtr h | shtr h | gvdd h | hdec h | henc h | cvt h | cvh h
  | meat h | meah h =>
    rw [decode_eq, h]
    rfl

/-- Every word is rejected under its reserved code or is one operation (R44, R45). -/
theorem decode_cases (w : Word) :
    (reservedOpc (opcOf w) = true ∧ decode w = .error (.reservedOpc (opcOf w))) ∨
      (reservedOpc (opcOf w) = false ∧ ∃ i, DecodesTo w i ∧ decode w = .ok i) := by
  cases hr : reservedOpc (opcOf w)
  · have hm : opcOf w ∈ operationCodes := by simpa [hr] using reservedOpc_iff (opcOf w)
    obtain ⟨i, hi⟩ := exists_decodesTo hm
    exact .inr ⟨rfl, i, hi, decode_of_decodesTo hi⟩
  · exact .inl ⟨rfl, decode_of_reservedOpc hr⟩

theorem decode_eq_ok {w : Word} {i : Instr} (hd : decode w = .ok i) :
    reservedOpc (opcOf w) = false ∧ DecodesTo w i := by
  obtain ⟨-, he⟩ | ⟨hr, j, hj, he⟩ := decode_cases w
  · cases hd.symm.trans he
  · obtain rfl := Except.ok.inj (hd.symm.trans he)
    exact ⟨hr, hj⟩

theorem encode_injective : Function.Injective encode := fun i j h =>
  Except.ok.inj ((decode_encode i).symm.trans ((congrArg decode h).trans (decode_encode j)))

/-! ## A word under a mask -/

/-- A word is its three fields (R38). -/
theorem reqWord_fields (w : Word) : reqWord (opcOf w) (fieldA w) (fieldB w) = w := by
  have hhigh : opcOf w ++ fieldA w = w.extractLsb' 8 24 := BitVec.extractLsb'_append_extractLsb'_eq_extractLsb' rfl
  rw [reqWord, hhigh]
  exact (BitVec.extractLsb'_append_extractLsb'_eq_extractLsb' rfl).trans BitVec.extractLsb'_eq_self

theorem reqWord_and_reqWord (opc opc' : Byte) (a a' : Half) (b b' : Byte) :
    reqWord opc a b &&& reqWord opc' a' b' = reqWord (opc &&& opc') (a &&& a') (b &&& b') :=
  BitVec.and_append.trans (congrArg (· ++ (b &&& b')) BitVec.and_append)

theorem opcOf_and (w m : Word) : opcOf (w &&& m) = opcOf w &&& opcOf m := BitVec.extractLsb'_and

/-- A mask of A that keeps bits of AL only (R71). -/
theorem fieldA_and_halfOf (w : Word) (m : Byte) : fieldA w &&& halfOf 0x00 m = halfOf 0x00 (fieldAL w &&& m) := by
  have hA : halfOf (w.extractLsb' 16 8) (fieldAL w) = fieldA w :=
    BitVec.extractLsb'_append_extractLsb'_eq_extractLsb' rfl
  rw [← hA]
  exact BitVec.and_append.trans (congrArg (halfOf · (fieldAL w &&& m)) BitVec.and_zero)

/-- A mask of A that keeps A[0] only (R73). -/
theorem fieldA_and_one (w : Word) : fieldA w &&& 0x0001 = halfOfBit 0 (fieldA0 w) := by
  have hA : halfOfBit (w.extractLsb' 9 15) (fieldA0 w) = fieldA w :=
    BitVec.extractLsb'_append_extractLsb'_eq_extractLsb' rfl
  rw [← hA]
  exact BitVec.and_append.trans (congrArg₂ halfOfBit BitVec.and_zero BitVec.and_allOnes)

/-- The word of a code under a mask of that code, field by field; the mask keeps the whole code. -/
theorem reqWord_eq_and_mask {w : Word} {opc b mb : Byte} {a ma : Half} (mask : Byte → Word) (h : opcOf w = opc)
    (ha : fieldA w &&& ma = a) (hb : fieldB w &&& mb = b) (hm : mask opc = reqWord 0xFF ma mb) :
    reqWord opc a b = w &&& mask (opcOf w) := by
  have hopc : opc &&& 0xFF = opc := BitVec.and_allOnes
  calc reqWord opc a b
    _ = reqWord (opcOf w) (fieldA w) (fieldB w) &&& reqWord 0xFF ma mb := by
      rw [reqWord_and_reqWord, h, hopc, ha, hb]
    _ = w &&& mask (opcOf w) := by rw [reqWord_fields, h, hm]

/-- Encoding what a word decodes to keeps exactly the fields that the assembler form sets (R47). -/
theorem encode_of_decodesTo {w : Word} {i : Instr} (hi : DecodesTo w i) : encode i = w &&& syntaxMask (opcOf w) := by
  cases hi with
  | rdctl h => exact reqWord_eq_and_mask syntaxMask h BitVec.and_zero BitVec.and_zero rfl
  | wrctl h | gres h | ghtr h | gvdd h | hdec h | henc h =>
    exact reqWord_eq_and_mask syntaxMask h BitVec.and_zero BitVec.and_allOnes rfl
  | mask h | cvt h | cvh h => exact reqWord_eq_and_mask syntaxMask h BitVec.and_allOnes BitVec.and_zero rfl
  | crcv h | chk h | meat h | meah h => exact reqWord_eq_and_mask syntaxMask h BitVec.and_allOnes BitVec.and_allOnes rfl
  | sres h =>
    have hA : fieldA w &&& 0x00FF = halfOf 0x00 (fieldAL w) :=
      (fieldA_and_halfOf w 0xFF).trans (congrArg _ BitVec.and_allOnes)
    exact reqWord_eq_and_mask syntaxMask h hA BitVec.and_allOnes rfl
  | shtr h => exact reqWord_eq_and_mask syntaxMask h (fieldA_and_one w) BitVec.and_allOnes rfl

/-! ## The bits an operation reads -/

/-- The operation with the operand bits it does not read at zero (R39): only WRCTL and SRES have some. -/
def readPart : Instr → Instr
  | .wrctl data => .wrctl (data &&& 0x01)
  | .sres reg code => .sres reg (code &&& resMask)
  | i => i

theorem exec_readPart (i : Instr) (s : State) : exec (readPart i) s = exec i s := by
  cases i with
  | wrctl data =>
    have hnew : ∀ data : Byte, wrctlNew (data &&& 0x01) = wrctlNew data := by decide +kernel
    rw [readPart, exec_wrctl, exec_wrctl, hnew]
  | sres reg code =>
    have hcode : sresOf reg (code &&& resMask) = sresOf reg code := by
      rw [sresOf, sresOf, BitVec.and_assoc, BitVec.and_self]
    exact congrArg (fun v => Host.Outcome.next (respond .ok false (resultByte v) s)) hcode
  | _ => rfl

/-- The read bits of a word are the encoding of what its operation reads (R39). For every operation but WRCTL and SRES they are the
bits that the assembler form sets. -/
theorem encode_readPart_of_decodesTo {w : Word} {i : Instr} (hi : DecodesTo w i) :
    encode (readPart i) = w &&& readMask (opcOf w) := by
  have full (h : syntaxMask (opcOf w) = readMask (opcOf w)) : encode i = w &&& readMask (opcOf w) :=
    h ▸ encode_of_decodesTo hi
  cases hi with
  | wrctl h => exact reqWord_eq_and_mask readMask h BitVec.and_zero rfl rfl
  | sres h => exact reqWord_eq_and_mask readMask h (fieldA_and_halfOf w resMask) BitVec.and_allOnes rfl
  | rdctl h | crcv h | mask h | chk h | gres h | ghtr h | shtr h | gvdd h | hdec h | henc h | cvt h | cvh h | meat h
  | meah h =>
    exact full (by rw [h]; rfl)

/-- Every operation reads the whole of its code (R37). -/
theorem opcOf_and_readMask (w : Word) (opc : Byte) : opcOf (w &&& readMask opc) = opcOf w := by
  have hm : ∀ opc : Byte, opcOf (readMask opc) = BitVec.allOnes 8 := by decide +kernel
  rw [opcOf_and, hm, BitVec.and_allOnes]

/-- Words that differ in no bit of a mask are equal under it. -/
theorem and_eq_and_of_xor {w1 w2 m : Word} (h : (w1 ^^^ w2) &&& m = 0) : w1 &&& m = w2 &&& m := by
  have hdistrib : (w1 &&& m) ^^^ (w2 &&& m) = (w1 ^^^ w2) &&& m := by
    ext k
    simp [Bool.and_xor_distrib_right]
  exact BitVec.xor_eq_zero_iff.mp (hdistrib.trans h)

/-! ## The assembler -/

/-- A line other than `.word` assembles to the encoding of the operation it names (R47, R48). -/
theorem encode_of_assemble {l : AsmLine} {w : Word} (hne : l.mnemonic ≠ .dotWord) (ha : assemble l = some w) :
    ∃ i, l.instr = some i ∧ encode i = w := by
  unfold assemble at ha
  split at ha
  · split at ha
    · exact absurd ‹l.mnemonic = .dotWord› hne
    · exact Option.map_eq_some_iff.mp ha
  · cases ha

/-- An encoded operation is what an assembler writes: it keeps its value under `syntaxMask`. -/
theorem canonicalWord_encode (i : Instr) : canonicalWord (encode i) = true := by
  obtain ⟨hr, hi⟩ := decode_eq_ok (decode_encode i)
  have hzero : encode i &&& ~~~(syntaxMask (opcOf (encode i))) = 0 :=
    calc encode i &&& ~~~(syntaxMask (opcOf (encode i)))
      _ = encode i &&& syntaxMask (opcOf (encode i)) &&& ~~~(syntaxMask (opcOf (encode i))) :=
        congrArg (· &&& _) (encode_of_decodesTo hi)
      _ = 0 := by
        rw [BitVec.and_assoc, BitVec.and_not_self]
        exact BitVec.and_zero
  simp [canonicalWord, hr, hzero]

/-! ## The status of an operation's answer -/

/-- The statuses an operation answers with: Ok with or without CRCF, and ChecksumMismatch (R94, R95). -/
def OperationStatus (st : Byte) : Prop := st = 0x00 ∨ st = 0x10 ∨ st = 0x18

theorem OperationStatus.stCode_ne {st : Byte} (h : OperationStatus st) : stCode st ≠ 4 := by
  obtain rfl | rfl | rfl := h <;> decide

theorem processReading_status (value : Half) (crc : Byte) (convert : Half → Word) (s : State) :
    ∃ st r, processReading value crc convert s = afterAnswer s st r ∧ OperationStatus st := by
  rw [processReading_eq]
  split
  · exact ⟨_, _, rfl, .inl rfl⟩
  · split
    · exact ⟨_, _, rfl, .inr (.inr rfl)⟩
    · exact ⟨_, _, rfl, .inr (.inl rfl)⟩

theorem exec_status (i : Instr) (s : State) :
    ∃ t x, exec i s = .next t ∧ t.outbox = s.outbox ++ [x] ∧ OperationStatus x.st := by
  have reading (value : Half) (crc : Byte) (convert : Half → Word) :
      ∃ t x, (.next (processReading value crc convert s) : Result) = .next t ∧ t.outbox = s.outbox ++ [x] ∧
        OperationStatus x.st := by
    obtain ⟨st, r, h, hst⟩ := processReading_status value crc convert s
    exact ⟨_, ⟨st, r⟩, congrArg Host.Outcome.next h, rfl, hst⟩
  cases i with
  | wrctl data => exact ⟨_, _, exec_wrctl data s, rfl, .inl rfl⟩
  | crcv value crc =>
    have hst : ∀ crcf, OperationStatus (statusByte .ok crcf) := by
      intro crcf
      rw [statusByte_ok]
      cases crcf
      · exact .inl rfl
      · exact .inr (.inl rfl)
    exact ⟨_, _, rfl, rfl, hst _⟩
  | chk value crc => exact reading value crc resultHalf
  | meat value crc => exact reading value crc (temp32 s.config.tempNumericMode)
  | meah value crc => exact reading value crc hum32
  | rdctl | mask | gres | sres | ghtr | shtr | gvdd | hdec | henc | cvt | cvh =>
    exact ⟨_, _, congrArg Host.Outcome.next (respond_ok_eq _ _), rfl, .inl rfl⟩

/-! ## The obligations -/

/-- Settles O2: the code of the encoding selects the operation's own row. -/
theorem decodeOfEncode : Obligations.DecodeOfEncode := decode_encode

/-- Settles O3, row by row of the operation map. -/
theorem encodeOfDecode : Obligations.EncodeOfDecode :=
  fun _ _ hd => encode_of_decodesTo (decode_eq_ok hd).2

/-- Settles O4: a word is rejected or an operation as its code is reserved or not; the count is over the 256 codes. -/
theorem exactlyReservedWordsRejected : Obligations.ExactlyReservedWordsRejected := by
  refine ⟨fun w => ?_, by decide +kernel⟩
  obtain ⟨hr, he⟩ | ⟨hr, i, -, hi⟩ := decode_cases w
  · rwa [if_pos hr]
  · rw [hr, if_neg Bool.false_ne_true]
    exact ⟨i, hi⟩

/-- Settles O5: every row has the mask of the code, so all the rows a word selects have one pattern, and no two rows share one. -/
theorem operationMapRowsDisjoint : Obligations.OperationMapRowsDisjoint := by
  intro w
  have hmask : ∀ row ∈ operationMap, row.mask = 0xFF000000 := by decide
  have hdistinct : (operationMap.map OpRow.pattern).Nodup := by decide
  have hpattern : ∀ row ∈ operationMap.filter (rowSelects w), row.pattern = w &&& 0xFF000000 := by
    intro row hrow
    obtain ⟨hmem, hsel⟩ := List.mem_filter.mp hrow
    rw [← hmask row hmem]
    exact (beq_iff_eq.mp hsel).symm
  have hnodup : ((operationMap.filter (rowSelects w)).map OpRow.pattern).Nodup :=
    hdistinct.sublist (List.filter_sublist.map OpRow.pattern)
  rw [List.map_eq_replicate_iff.mpr hpattern] at hnodup
  exact List.nodup_replicate.mp hnodup

/-- Settles O7: both words have the code of the first, and their operations have the same part that is read. -/
theorem unreadBitsHaveNoEffect : Obligations.UnreadBitsHaveNoEffect := by
  intro s w1 w2 hxor
  have hand := and_eq_and_of_xor hxor
  have hopc : opcOf w1 = opcOf w2 := by
    simpa only [opcOf_and_readMask] using congrArg opcOf hand
  obtain ⟨hr, he⟩ | ⟨hr, i, hi, he⟩ := decode_cases w1
  · rw [step_error rfl he, step_error rfl (decode_of_reservedOpc (hopc ▸ hr))]
  · obtain ⟨hr2, -⟩ | ⟨-, j, hj, hd⟩ := decode_cases w2
    · rw [← hopc, hr] at hr2
      cases hr2
    · have hread : readPart i = readPart j := by
        apply encode_injective
        rw [encode_readPart_of_decodesTo hi, hand, hopc, encode_readPart_of_decodesTo hj]
      rw [step_ok rfl he, step_ok rfl hd, ← exec_readPart i, hread, exec_readPart]

/-- Settles O8: the line's word is the encoding of the operation it names. -/
theorem assembledLineDecodes : Obligations.AssembledLineDecodes := by
  intro l w hne ha
  obtain ⟨i, hi, rfl⟩ := encode_of_assemble hne ha
  exact ⟨i, hi, decode_encode i, canonicalWord_encode i⟩

/-- Settles O10: a reserved code is rejected by the decoder; an operation's answer has one of three other statuses. -/
theorem reservedCodeAnswersInvalidArgument : Obligations.ReservedCodeAnswersInvalidArgument := by
  refine ⟨fun s req rest h hr => step_error h (decode_of_reservedOpc hr), fun i s => ?_, fun w => reservedOpc_iff (opcOf w)⟩
  obtain ⟨t, x, ht, hout, hst⟩ := exec_status i s
  exact ⟨t, x, ht, hout, hst.stCode_ne⟩

/-- Settles O1: the six words are encodings. -/
theorem writtenOutWordsDecode : Obligations.WrittenOutWordsDecode :=
  ⟨decode_encode .rdctl, decode_encode (.wrctl 0x01), decode_encode (.chk 0x683A 0x7C), decode_encode (.sres 0x3A 0x81),
    decode_encode (.shtr 0xBB 1), decode_encode (.meat 0x683A 0x7C)⟩

end Machine
end Sys2Proof

/-! SUPPORT. The reduction of a row pass by pass, and from it the laws of the CRC (40_crc.md R62) and the operations that check a
reading (R63 to R66). -/

namespace Sys2Proof
namespace Machine

/-! ## The reduction, one pass at a time -/

/-- The row after the first `n` passes (R59). -/
def rowAfter (row : Row) (n : Nat) : Row := ((List.range n).foldl remPass (row, crcDivisor)).1

theorem rem24_eq_rowAfter (row : Row) : rem24 row = rowAfter row 16 := rfl

theorem rowAfter_zero (row : Row) : rowAfter row 0 = row := rfl

theorem passes_succ (row : Row) (n : Nat) :
    (List.range (n + 1)).foldl remPass (row, crcDivisor) = remPass ((List.range n).foldl remPass (row, crcDivisor)) n := by
  rw [List.range_succ, List.foldl_append, List.foldl_cons, List.foldl_nil]

/-- The divisor moves one place right per pass, whatever the row is. -/
theorem divisorAfter_eq (row : Row) (n : Nat) : ((List.range n).foldl remPass (row, crcDivisor)).2 = crcDivisor >>> n := by
  induction n with
  | zero => rfl
  | succ n ih => rw [passes_succ, remPass, ih, BitVec.shiftRight_add]

theorem rowAfter_succ (row : Row) (n : Nat) :
    rowAfter row (n + 1) =
      if (rowAfter row n).getLsbD (23 - n) then rowAfter row n ^^^ crcDivisor >>> n else rowAfter row n := by
  rw [rowAfter, passes_succ, remPass, divisorAfter_eq]
  rfl

/-! ## Linearity -/

/-- XORing `d` into two rows or not, each as its own bit says, XORs it into their sum as the sum of the bits says. -/
theorem ite_xor_ite (p q : Bool) (x y d : Row) :
    (if p ^^ q then x ^^^ y ^^^ d else x ^^^ y) = (if p then x ^^^ d else x) ^^^ if q then y ^^^ d else y := by
  match p, q with
  | false, false => rfl
  | false, true => exact BitVec.xor_assoc x y d
  | true, false => exact (by ac_rfl : x ^^^ y ^^^ d = x ^^^ d ^^^ y)
  | true, true =>
    calc x ^^^ y
      _ = x ^^^ y ^^^ (d ^^^ d) := by rw [BitVec.xor_self, BitVec.xor_zero]
      _ = x ^^^ d ^^^ (y ^^^ d) := by ac_rfl

/-- Each pass XORs the same divisor into a row or not, as one bit of the row says. -/
theorem rowAfter_xor (x y : Row) (n : Nat) : rowAfter (x ^^^ y) n = rowAfter x n ^^^ rowAfter y n := by
  induction n with
  | zero => rfl
  | succ n ih =>
    rw [rowAfter_succ, rowAfter_succ, rowAfter_succ, ih, BitVec.getLsbD_xor]
    exact ite_xor_ite _ _ _ _ _

theorem rem24_xor (x y : Row) : rem24 (x ^^^ y) = rem24 x ^^^ rem24 y := rowAfter_xor x y 16

/-- An error in a valid row leaves its own remainder. -/
theorem rem24_xor_of_valid {row : Row} (h : rem24 row = 0) (err : Row) : rem24 (row ^^^ err) = rem24 err := by
  rw [rem24_xor, h]
  exact BitVec.zero_xor

/-! ## Division by the polynomial -/

/-- A byte is its own remainder: no pass tests one of the low eight bits (R62 (b)). -/
theorem rem24_setWidth_byte (c : Byte) : rem24 (c.setWidth 24) = c.setWidth 24 := by
  have hpass : ∀ n ≤ 16, rowAfter (c.setWidth 24) n = c.setWidth 24 := by
    intro n hn
    induction n with
    | zero => rfl
    | succ n ih =>
      have hclear : (c.setWidth 24).getLsbD (23 - n) = false := by
        rw [BitVec.getLsbD_setWidth, BitVec.getLsbD_of_ge c _ (by omega), Bool.and_false]
      rw [rowAfter_succ, ih (by omega), hclear]
      rfl
  exact hpass 16 (Nat.le_refl 16)

theorem rem24_zero : rem24 0#24 = 0#24 := rem24_setWidth_byte 0

/-- The polynomial x^8+x^5+x^4+1 divides itself at every place of the row. -/
theorem rem24_polynomial : ∀ k < 16, rem24 (0x131#24 <<< k) = 0 := by decide +kernel

/-- A byte moved left by one place is one step of the serial form, but for the polynomial. -/
theorem setWidth_shiftLeft_one (c : Byte) :
    c.setWidth 24 <<< 1 = (crcBit c).setWidth 24 ^^^ if c.getLsbD 7 then 0x131#24 else 0 := by
  revert c
  decide +kernel

/-- A byte one place further left leaves what the next byte of the serial form leaves (R62 (h)). -/
theorem rem24_shiftLeft_succ (c : Byte) {k : Nat} (hk : k < 16) :
    rem24 (c.setWidth 24 <<< (k + 1)) = rem24 ((crcBit c).setWidth 24 <<< k) := by
  rw [Nat.add_comm, BitVec.shiftLeft_add, setWidth_shiftLeft_one, BitVec.shiftLeft_xor_distrib, rem24_xor]
  cases c.getLsbD 7
  · simp [rem24_zero]
  · simp [rem24_polynomial k hk]

theorem rem24_shiftLeft_add (c : Byte) (n : Nat) {k : Nat} (hk : k + n ≤ 16) :
    rem24 (c.setWidth 24 <<< (k + n)) = rem24 ((Nat.repeat crcBit n c).setWidth 24 <<< k) := by
  induction n generalizing k with
  | zero => rfl
  | succ n ih =>
    calc rem24 (c.setWidth 24 <<< (k + (n + 1)))
      _ = rem24 (c.setWidth 24 <<< (k + 1 + n)) := by rw [Nat.add_assoc, Nat.add_comm n 1]
      _ = rem24 ((Nat.repeat crcBit n c).setWidth 24 <<< (k + 1)) := ih (by omega)
      _ = rem24 ((crcBit (Nat.repeat crcBit n c)).setWidth 24 <<< k) := rem24_shiftLeft_succ _ (by omega)

/-- The remainder of a byte anywhere in the row, by the serial form. -/
theorem rem24_shiftLeft (c : Byte) {n : Nat} (hn : n ≤ 16) :
    rem24 (c.setWidth 24 <<< n) = (Nat.repeat crcBit n c).setWidth 24 := by
  have h := rem24_shiftLeft_add c n (k := 0) (by omega)
  rwa [Nat.zero_add, BitVec.shiftLeft_zero, rem24_setWidth_byte] at h

/-! ## The check byte -/

theorem setWidth_byte_eq_zero_iff (x : Byte) : x.setWidth 24 = 0 ↔ x = 0 := by
  rw [← BitVec.toNat_inj, ← BitVec.toNat_inj, BitVec.toNat_setWidth_of_le (by decide)]
  rfl

/-- The row is its three bytes. -/
theorem rowOf_eq_bytes (value : Half) (crc : Byte) : rowOf value crc =
    (value.extractLsb' 8 8).setWidth 24 <<< 16 ^^^ (value.extractLsb' 0 8).setWidth 24 <<< 8 ^^^ crc.setWidth 24 := by
  apply BitVec.eq_of_getLsbD_eq
  intro k hk
  rw [rowOf, BitVec.getLsbD_append]
  by_cases h8 : k < 8
  · simp [h8, hk, show k < 16 by omega]
  · have hcrc : crc.getLsbD k = false := BitVec.getLsbD_of_ge crc k (by omega)
    by_cases h16 : k < 16
    · simp [h8, h16, hk, hcrc, show k - 8 < 8 by omega]
    · simp [h8, h16, hk, hcrc, show ¬ k - 8 < 8 by omega, show k - 16 < 8 by omega,
        show 8 + (k - 16) = k - 8 by omega]

/-- Every remainder is a byte: the serial form's check byte XOR the byte given (R62 (a), (b), (h)). -/
theorem rem24_rowOf_serial (value : Half) (crc : Byte) : rem24 (rowOf value crc) = (crc8Serial value ^^^ crc).setWidth 24 := by
  have hhigh := rem24_shiftLeft_add (value.extractLsb' 8 8) 8 (k := 8) (by omega)
  rw [rowOf_eq_bytes, rem24_xor, rem24_xor, hhigh, ← rem24_xor, ← BitVec.shiftLeft_xor_distrib, ← BitVec.setWidth_xor,
    rem24_shiftLeft _ (by decide), rem24_setWidth_byte, ← BitVec.setWidth_xor, crc8Serial, crcByte, crcByte,
    show 0x00 ^^^ value.extractLsb' 8 8 = value.extractLsb' 8 8 from BitVec.zero_xor]

theorem crc8_eq_crc8Serial (value : Half) : crc8 value = crc8Serial value := by
  rw [crc8, rem24_rowOf_serial, show crc8Serial value ^^^ 0x00 = crc8Serial value from BitVec.xor_zero,
    BitVec.extractLsb'_setWidth_of_le (by decide), BitVec.extractLsb'_eq_self]

theorem rem24_rowOf (value : Half) (crc : Byte) : rem24 (rowOf value crc) = (crc8 value ^^^ crc).setWidth 24 := by
  rw [rem24_rowOf_serial, crc8_eq_crc8Serial]

theorem validate_iff (value : Half) (crc : Byte) : validate value crc = true ↔ crc = crc8 value := by
  rw [validate, beq_iff_eq, rem24_rowOf]
  exact (setWidth_byte_eq_zero_iff _).trans (BitVec.xor_eq_zero_iff.trans eq_comm)

theorem crc8_xor (a b : Half) : crc8 (a ^^^ b) = crc8 a ^^^ crc8 b := by
  have hrow : rowOf (a ^^^ b) 0 = rowOf a 0 ^^^ rowOf b 0 := by
    rw [rowOf, rowOf, rowOf, BitVec.xor_append]
    rfl
  rw [crc8, hrow, rem24_xor, BitVec.extractLsb'_xor, crc8, crc8]

/-- The check byte of a one-byte value, the table of 95_test_vectors.md part 2. -/
theorem crc8_setWidth_byte (b : Byte) : crc8 (b.setWidth 16) = crcByte 0x00 b := by
  have hhigh : (b.setWidth 16).extractLsb' 8 8 = 0x00 := by ext k; simp
  have hlow : (b.setWidth 16).extractLsb' 0 8 = b := by
    rw [BitVec.extractLsb'_setWidth_of_le (by decide), BitVec.extractLsb'_eq_self]
  rw [crc8_eq_crc8Serial, crc8Serial, hhigh, hlow]
  rfl

/-- R62 (h), 95_test_vectors.md part 2: the serial form takes the second byte in as the table does. -/
theorem crc8_eq_table (value : Half) : crc8 value =
    crc8 ((crc8 ((value.extractLsb' 8 8).setWidth 16) ^^^ value.extractLsb' 0 8).setWidth 16) := by
  rw [crc8_setWidth_byte, crc8_setWidth_byte, crc8_eq_crc8Serial, crc8Serial, crcByte]
  exact congrArg (Nat.repeat crcBit 8) BitVec.zero_xor.symm

/-! ## Errors -/

theorem crcBit_eq_zero {c : Byte} (h : crcBit c = 0) : c = 0 := by
  revert c
  decide +kernel

theorem repeat_crcBit_eq_zero {c : Byte} {n : Nat} (h : Nat.repeat crcBit n c = 0) : c = 0 := by
  induction n with
  | zero => exact h
  | succ n ih => exact ih (crcBit_eq_zero h)

/-- A byte that is not zero has a remainder wherever it stands (R62 (g)). -/
theorem rem24_shiftLeft_ne_zero {pattern : Byte} (hp : pattern ≠ 0) {k : Nat} (hk : k ≤ 16) :
    rem24 (pattern.setWidth 24 <<< k) ≠ 0 := by
  rw [rem24_shiftLeft pattern hk]
  exact fun h => hp (repeat_crcBit_eq_zero ((setWidth_byte_eq_zero_iff _).mp h))

/-- The number of set bits of a row. -/
def weight (row : Row) : Nat := ((List.range 24).filter fun k => row.getLsbD k).length

theorem length_filter_xor_mod_two (p q : Nat → Bool) (l : List Nat) :
    (l.filter fun k => p k ^^ q k).length % 2 = ((l.filter p).length + (l.filter q).length) % 2 := by
  induction l with
  | nil => rfl
  | cons k l ih => cases hp : p k <;> cases hq : q k <;> simp [hp, hq] <;> omega

theorem weight_xor_mod_two (x y : Row) : weight (x ^^^ y) % 2 = (weight x + weight y) % 2 := by
  simp only [weight, BitVec.getLsbD_xor]
  exact length_filter_xor_mod_two x.getLsbD y.getLsbD (List.range 24)

theorem weight_divisor_mod_two : ∀ n < 16, weight (crcDivisor >>> n) % 2 = 0 := by decide

/-- The divisor has four bits set in every pass, so no pass changes the parity of the row's weight. -/
theorem weight_rowAfter_mod_two (row : Row) {n : Nat} (hn : n ≤ 16) : weight (rowAfter row n) % 2 = weight row % 2 := by
  induction n with
  | zero => rfl
  | succ n ih =>
    rw [rowAfter_succ, ← ih (by omega)]
    split
    · rw [weight_xor_mod_two, Nat.add_mod, weight_divisor_mod_two n hn, Nat.add_zero, Nat.mod_mod]
    · rfl

theorem rem24_ne_zero_of_odd_weight {err : Row} (h : weight err % 2 = 1) : rem24 err ≠ 0 := by
  intro h0
  have hpar : weight (rem24 err) % 2 = weight err % 2 := weight_rowAfter_mod_two err (Nat.le_refl 16)
  rw [h0, h] at hpar
  exact absurd hpar (by decide)

theorem weight_singleBit : ∀ k < 24, weight (1#24 <<< k) = 1 := by decide

/-! ## The operations that check a reading -/

/-- CRCV answers the bare verdict, in both modes (R63). -/
theorem exec_crcv (value : Half) (crc : Byte) (s : State) : exec (.crcv value crc) s =
    .next (if validate value crc then afterAnswer s 0x00 1 else afterAnswer s 0x10 0) := by
  change Host.Outcome.next (respond .ok (crcFlag (validate value crc)) (resultBool (validate value crc)) s) = _
  rw [respond_eq_afterAnswer, statusByte_ok]
  cases validate value crc <;> rfl

/-- Clearing the two status bits is rounding down to a multiple of 4 (R50, R64). -/
theorem maskValue_eq (value : Half) : maskValue value = BitVec.ofNat 16 (value.toNat / 4 * 4) := by
  have hmask : ∀ k < 16, statusMask.getLsbD k = decide (2 ≤ k) := by decide
  have hshift : maskValue value = value >>> 2 <<< 2 := by
    apply BitVec.eq_of_getLsbD_eq
    intro k hk
    rw [maskValue, BitVec.getLsbD_and, hmask k hk]
    by_cases h2 : 2 ≤ k
    · simp [h2, hk, show ¬ k < 2 by omega, show 2 + (k - 2) = k by omega]
    · simp [h2, show k < 2 by omega]
  apply BitVec.eq_of_toNat_eq
  rw [hshift, BitVec.toNat_shiftLeft, BitVec.toNat_ushiftRight, BitVec.toNat_ofNat, Nat.shiftLeft_eq,
    Nat.shiftRight_eq_div_pow]

theorem resultHalf_maskValue (value : Half) : resultHalf (maskValue value) = BitVec.ofNat 32 (value.toNat / 4 * 4) := by
  rw [maskValue_eq]
  apply BitVec.eq_of_toNat_eq
  have hv : value.toNat < 65536 := value.isLt
  rw [resultHalf, BitVec.toNat_setWidth_of_le (by decide), BitVec.toNat_ofNat, BitVec.toNat_ofNat,
    Nat.mod_eq_of_lt (by omega), Nat.mod_eq_of_lt (by omega)]

/-- A good reading is converted in both modes (R65, R66). -/
theorem processReading_of_valid {value : Half} {crc : Byte} (hv : validate value crc = true) (convert : Half → Word)
    (s : State) : processReading value crc convert s = afterAnswer s 0x00 (convert (maskValue value)) := by
  rw [processReading_eq, if_pos hv]

/-- A bad reading in soft-fail mode is converted and flagged (R65, R66). -/
theorem processReading_of_soft {value : Half} {crc : Byte} {s : State} (hv : validate value crc = false)
    (hs : s.ctrl.getLsbD 0 = false) (convert : Half → Word) :
    processReading value crc convert s = afterAnswer s 0x10 (convert (maskValue value)) := by
  rw [processReading_eq, if_neg (ne_true_of_eq_false hv), if_neg (ne_true_of_eq_false hs)]

/-- A bad reading in strict mode is withheld (R65, R66). -/
theorem processReading_of_strict {value : Half} {crc : Byte} {s : State} (hv : validate value crc = false)
    (hs : s.ctrl.getLsbD 0 = true) (convert : Half → Word) :
    processReading value crc convert s = afterAnswer s 0x18 0 := by
  rw [processReading_eq, if_neg (ne_true_of_eq_false hv), if_pos hs]

/-- CHK, MEAT and MEAH each process their reading with a conversion that CTRL does not change (R65, R87, R88). -/
theorem exec_of_governed {i : Instr} {p : Half × Byte} (hi : governedByStrict i = true) (hp : readingOf i = some p)
    (s : State) : ∃ convert : Half → Word, ∀ c : Byte,
      exec i { s with ctrl := c } = .next (processReading p.1 p.2 convert { s with ctrl := c }) := by
  cases i with
  | chk value crc => cases hp; exact ⟨resultHalf, fun _ => rfl⟩
  | meat value crc => cases hp; exact ⟨temp32 s.config.tempNumericMode, fun _ => rfl⟩
  | meah value crc => cases hp; exact ⟨hum32, fun _ => rfl⟩
  | _ => cases hi

/-- An operation that is governed has a reading (R16, R66). -/
theorem readingOf_of_governed {i : Instr} (hi : governedByStrict i = true) : ∃ p, readingOf i = some p := by
  cases i with
  | chk value crc | meat value crc | meah value crc => exact ⟨_, rfl⟩
  | _ => cases hi

/-- An operation that STRICT does not govern and that is not RDCTL has one answer for every CTRL (R66). -/
theorem exec_of_not_governed {i : Instr} (hi : governedByStrict i = false) (hne : i ≠ .rdctl) (s : State) :
    ∃ x : Response, ∀ c : Byte, ∃ t, exec i { s with ctrl := c } = .next t ∧ t.outbox = s.outbox ++ [x] := by
  cases i with
  | rdctl => exact absurd rfl hne
  | wrctl data =>
    exact ⟨⟨0x00, resultByte (wrctlNew data &&& ctrlImplemented &&& ctrlImplemented)⟩,
      fun c => ⟨_, exec_wrctl data { s with ctrl := c }, rfl⟩⟩
  | cvt raw => exact ⟨⟨0x00, temp32 s.config.tempNumericMode raw⟩, fun _ => ⟨_, rfl, rfl⟩⟩
  | chk | meat | meah => cases hi
  | crcv | mask | gres | sres | ghtr | shtr | gvdd | hdec | henc | cvh => exact ⟨_, fun _ => ⟨_, rfl, rfl⟩⟩

/-! ## The obligations -/

/-- Settles O19: a governed operation processes its reading under the policy; any other answers without reading CTRL. -/
theorem strictGovernsThreeOperations : Obligations.StrictGovernsThreeOperations := by
  constructor
  · intro i s p c0 c1 hi hp hbad h0 h1
    obtain ⟨convert, he⟩ := exec_of_governed hi hp s
    refine ⟨⟨0x10, convert (maskValue p.1)⟩, _, _, he c0, he c1, ?_, rfl, ?_⟩
    · rw [processReading_of_soft hbad h0, afterAnswer_outbox]
    · rw [processReading_of_strict hbad h1, afterAnswer_outbox]
  · intro i s c hne hgood
    cases hi : governedByStrict i with
    | false =>
      obtain ⟨x, hx⟩ := exec_of_not_governed hi hne s
      obtain ⟨t, ht, htx⟩ := hx s.ctrl
      obtain ⟨u, hu, hux⟩ := hx c
      exact ⟨x, t, u, ht, hu, htx, hux⟩
    | true =>
      obtain ⟨p, hp⟩ := readingOf_of_governed hi
      obtain ⟨convert, he⟩ := exec_of_governed hi hp s
      have hvalid : validate p.1 p.2 = true := hgood hi p hp
      refine ⟨⟨0x00, convert (maskValue p.1)⟩, _, _, he s.ctrl, he c, ?_, ?_⟩ <;>
        rw [processReading_of_valid hvalid, afterAnswer_outbox]

/-- Settles O29, by the long division of the three bytes of the row. -/
theorem remainderOfRow : Obligations.RemainderOfRow := rem24_rowOf

/-- Settles O30: the remainder of the row is zero exactly when the byte given cancels the check byte. -/
theorem exactlyOneCheckByteValid : Obligations.ExactlyOneCheckByteValid := ⟨validate_iff, by decide +kernel⟩

/-- Settles O31, by induction on the passes. -/
theorem remainderIsLinear : Obligations.RemainderIsLinear := ⟨rem24_xor, crc8_xor⟩

/-- Settles O32: a single bit is an error of odd weight. -/
theorem singleBitErrorsDetected : Obligations.SingleBitErrorsDetected := by
  intro row k hk hrow
  rw [rem24_xor_of_valid hrow]
  exact rem24_ne_zero_of_odd_weight (by rw [weight_singleBit k hk])

/-- Settles O33: a short burst is a byte moved left, whose remainder is steps of the serial form, which lose no byte. -/
theorem shortBurstsDetected : Obligations.ShortBurstsDetected := by
  intro row pattern k hk hp hrow
  rw [rem24_xor_of_valid hrow]
  exact rem24_shiftLeft_ne_zero hp hk

/-- Settles O34: the reduction keeps the parity of the weight. -/
theorem oddWeightErrorsDetected : Obligations.OddWeightErrorsDetected := by
  intro row err hodd hrow
  rw [rem24_xor_of_valid hrow]
  exact rem24_ne_zero_of_odd_weight hodd

/-- Settles O35, by the serial form. -/
theorem serialFormComputesCrc8 : Obligations.SerialFormComputesCrc8 :=
  fun value => ⟨crc8_eq_crc8Serial value, crc8_eq_table value⟩

/-- Settles O36, by the two verdicts. -/
theorem crcvAnswersVerdict : Obligations.CrcvAnswersVerdict := by
  intro value crc
  refine ⟨decode_encode (.crcv value crc), ?_, exec_crcv value crc⟩
  rw [← crc8_eq_crc8Serial]
  exact validate_iff value crc

/-- Settles O37: the mask rounds down to a multiple of 4. -/
theorem maskClearsStatusBits : Obligations.MaskClearsStatusBits := by
  refine fun value => ⟨fun b => by simp [decode_eq], fun s => ?_⟩
  rw [← resultHalf_maskValue]
  exact congrArg Host.Outcome.next (respond_ok_eq _ _)

/-- Settles O38, by the verdict and the mode. -/
theorem chkUnderPolicy : Obligations.ChkUnderPolicy := by
  intro value crc
  refine ⟨decode_encode (.chk value crc), fun s => ?_⟩
  have hexec : exec (.chk value crc) s = .next (processReading value crc resultHalf s) := rfl
  rw [hexec, ← resultHalf_maskValue]
  cases hv : validate value crc with
  | true => exact ⟨fun _ => congrArg Host.Outcome.next (processReading_of_valid hv resultHalf s), nofun⟩
  | false =>
    refine ⟨fun hsoft => ?_, fun _ hstrict => congrArg Host.Outcome.next (processReading_of_strict hv hstrict resultHalf)⟩
    have hs : s.ctrl.getLsbD 0 = false := hsoft.resolve_left Bool.false_ne_true
    exact congrArg Host.Outcome.next (processReading_of_soft hv hs resultHalf)

end Machine
end Sys2Proof

/-! SUPPORT. The merge of a field under a mask, at every width, and from it the register codec: its laws, its functions as numbers
and its operations (41_regcodec.md R70 to R79). -/

namespace Sys2Proof
namespace Machine

/-! ## A field merged under a mask -/

section MergeField

variable {n : Nat}

/-- The bits of `mask` from `new` and every other bit from `old`, as both merges of the family do (R69). -/
def mergeField (mask old new : BitVec n) : BitVec n := (old &&& ~~~mask) ||| (new &&& mask)

theorem getLsbD_eq_false_of_disjoint {mask mask' : BitVec n} (h : mask &&& mask' = 0) {k : Nat}
    (hk : mask.getLsbD k = true) : mask'.getLsbD k = false := by
  have hand : (mask &&& mask').getLsbD k = false := by
    rw [h]
    exact BitVec.getLsbD_zero
  rwa [BitVec.getLsbD_and, hk, Bool.true_and] at hand

variable (mask old new : BitVec n)

/-- The merge bit by bit; the laws below are read off it. -/
@[simp] theorem getLsbD_mergeField (k : Nat) :
    (mergeField mask old new).getLsbD k = if mask.getLsbD k then new.getLsbD k else old.getLsbD k := by
  by_cases hk : k < n
  · simp only [mergeField, BitVec.getLsbD_or, BitVec.getLsbD_and, BitVec.getLsbD_not, hk, decide_true]
    cases mask.getLsbD k <;> simp
  · simp [BitVec.getLsbD_of_ge _ k (Nat.le_of_not_lt hk)]

theorem mergeField_and_mask : mergeField mask old new &&& mask = new &&& mask := by
  apply BitVec.eq_of_getLsbD_eq
  intro k _
  cases hm : mask.getLsbD k <;> simp [hm]

/-- A read under another mask finds what was there. -/
theorem mergeField_and_of_disjoint {mask' : BitVec n} (h : mask &&& mask' = 0) :
    mergeField mask old new &&& mask' = old &&& mask' := by
  apply BitVec.eq_of_getLsbD_eq
  intro k _
  cases hm : mask.getLsbD k
  · simp [hm]
  · simp [getLsbD_eq_false_of_disjoint h hm]

/-- Merging what is held changes nothing. -/
theorem mergeField_held : mergeField mask old (old &&& mask) = old := by
  apply BitVec.eq_of_getLsbD_eq
  intro k _
  cases hm : mask.getLsbD k <;> simp [hm]

theorem mergeField_idem : mergeField mask (mergeField mask old new) new = mergeField mask old new := by
  apply BitVec.eq_of_getLsbD_eq
  intro k _
  cases hm : mask.getLsbD k <;> simp [hm]

theorem mergeField_comm {mask' : BitVec n} (h : mask &&& mask' = 0) (new' : BitVec n) :
    mergeField mask' (mergeField mask old new) new' = mergeField mask (mergeField mask' old new') new := by
  apply BitVec.eq_of_getLsbD_eq
  intro k _
  cases hm : mask.getLsbD k
  · simp [hm]
  · simp [hm, getLsbD_eq_false_of_disjoint h hm]

/-- The two parts share no bit, so the merge is their sum. -/
theorem toNat_mergeField :
    (mergeField mask old new).toNat = (old &&& ~~~mask).toNat + (new &&& mask).toNat := by
  have hdisjoint : (old &&& ~~~mask) &&& (new &&& mask) = 0#n := by
    apply BitVec.eq_of_getLsbD_eq
    intro k _
    cases hm : mask.getLsbD k <;> simp [hm]
  rw [mergeField, ← BitVec.add_eq_or_of_and_eq_zero _ _ hdisjoint, BitVec.toNat_add_of_and_eq_zero hdisjoint]

end MergeField

/-! ## The two merges and the bits they read -/

theorem sresOf_eq_mergeField (reg code : Byte) : sresOf reg code = mergeField resMask reg code := rfl

/-- The heater enable in its place in the register (R51). -/
def heaterField (en : BitVec 1) : Byte := en.setWidth 8 <<< htreBit

theorem heaterField_and_htreMask : ∀ en, heaterField en &&& htreMask = heaterField en := by decide

theorem shtrOf_eq_mergeField (reg : Byte) (en : BitVec 1) : shtrOf reg en = mergeField htreMask reg (heaterField en) := by
  rw [mergeField, heaterField_and_htreMask]
  rfl

theorem htreMask_disjoint_resMask : htreMask &&& resMask = 0 := by decide

theorem getLsbD_htreMask : ∀ k < 8, htreMask.getLsbD k = decide (k = 2) := by decide

/-- A one-bit field is the bit. -/
theorem ghtrOf_eq_ofBool (reg : Byte) : ghtrOf reg = BitVec.ofBool (reg.getLsbD htreBit) := by
  apply BitVec.eq_of_getLsbD_eq
  intro k hk
  obtain rfl : k = 0 := by omega
  simp [ghtrOf]

/-- The name given to the bit's value is undone again (R53, R75). -/
theorem vddStatusBit_vddStatusOf (reg : Byte) : vddStatusBit (vddStatusOf reg) = BitVec.ofBool (reg.getLsbD vddsBit) := by
  rw [vddStatusOf]
  cases reg.getLsbD vddsBit <;> rfl

theorem heaterField_ghtrOf (reg : Byte) : heaterField (ghtrOf reg) = reg &&& htreMask := by
  have hfield : ∀ en, ∀ k < 8, (heaterField en).getLsbD k = (en.getLsbD 0 && decide (k = 2)) := by decide
  apply BitVec.eq_of_getLsbD_eq
  intro k hk
  rw [hfield _ k hk, ghtrOf_eq_ofBool, BitVec.getLsbD_and, getLsbD_htreMask k hk]
  by_cases h2 : k = 2
  · simp [h2, htreBit]
  · simp [h2]

/-! ## The laws of the merges (R74) -/

theorem gresOf_sresOf (reg code : Byte) : gresOf (sresOf reg code) = gresOf code := mergeField_and_mask resMask reg code

theorem sresOf_and_kept (reg code : Byte) : sresOf reg code &&& 0x7E = reg &&& 0x7E :=
  mergeField_and_of_disjoint resMask reg code (by decide)

theorem shtrOf_and_kept (reg : Byte) (en : BitVec 1) : shtrOf reg en &&& 0xFB = reg &&& 0xFB := by
  rw [shtrOf_eq_mergeField]
  exact mergeField_and_of_disjoint htreMask reg _ (by decide)

theorem gresOf_shtrOf (reg : Byte) (en : BitVec 1) : gresOf (shtrOf reg en) = gresOf reg := by
  rw [shtrOf_eq_mergeField]
  exact mergeField_and_of_disjoint htreMask reg _ htreMask_disjoint_resMask

theorem ghtrOf_shtrOf (reg : Byte) (en : BitVec 1) : ghtrOf (shtrOf reg en) = en := by
  have hen : ∀ en : BitVec 1, BitVec.ofBool ((heaterField en).getLsbD htreBit) = en := by decide
  rw [ghtrOf_eq_ofBool, shtrOf_eq_mergeField, getLsbD_mergeField]
  exact hen en

theorem getLsbD_sresOf_of_kept {k : Nat} (hk : resMask.getLsbD k = false) (reg code : Byte) :
    (sresOf reg code).getLsbD k = reg.getLsbD k := by
  simp [sresOf_eq_mergeField, hk]

theorem getLsbD_shtrOf_of_kept {k : Nat} (hk : htreMask.getLsbD k = false) (reg : Byte) (en : BitVec 1) :
    (shtrOf reg en).getLsbD k = reg.getLsbD k := by
  simp [shtrOf_eq_mergeField, hk]

theorem ghtrOf_sresOf (reg code : Byte) : ghtrOf (sresOf reg code) = ghtrOf reg := by
  rw [ghtrOf_eq_ofBool, ghtrOf_eq_ofBool, getLsbD_sresOf_of_kept (by decide)]

theorem sresOf_gresOf (reg : Byte) : sresOf reg (gresOf reg) = reg := mergeField_held resMask reg

theorem shtrOf_ghtrOf (reg : Byte) : shtrOf reg (ghtrOf reg) = reg := by
  rw [shtrOf_eq_mergeField, heaterField_ghtrOf]
  exact mergeField_held htreMask reg

theorem shtrOf_sresOf (reg code : Byte) (en : BitVec 1) : shtrOf (sresOf reg code) en = sresOf (shtrOf reg en) code := by
  rw [shtrOf_eq_mergeField, shtrOf_eq_mergeField]
  exact (mergeField_comm htreMask reg _ htreMask_disjoint_resMask code).symm

theorem sresOf_idem (reg code : Byte) : sresOf (sresOf reg code) code = sresOf reg code := mergeField_idem resMask reg code

theorem shtrOf_idem (reg : Byte) (en : BitVec 1) : shtrOf (shtrOf reg en) en = shtrOf reg en := by
  simp only [shtrOf_eq_mergeField, mergeField_idem]

/-! ## The heater codec (R78) -/

/-- One function for both directions (R77). -/
theorem hencOf_eq_hdecOf (byte : Byte) : hencOf byte = hdecOf byte := rfl

theorem hdecOf_hdecOf (byte : Byte) : hdecOf (hdecOf byte) = hdecOf byte := by
  rw [hdecOf, hdecOf, BitVec.and_assoc, BitVec.and_self]

/-! ## The results as numbers -/

theorem toNat_gresOf : ∀ reg : Byte, (gresOf reg).toNat = reg.toNat / 128 * 128 + reg.toNat % 2 := by decide +kernel

theorem toNat_sresOf (reg code : Byte) :
    (sresOf reg code).toNat = code.toNat / 128 * 128 + reg.toNat / 2 % 64 * 2 + code.toNat % 2 := by
  have hkept : ∀ b : Byte, (b &&& ~~~resMask).toNat = b.toNat / 2 % 64 * 2 := by decide +kernel
  have hcode : (code &&& resMask).toNat = code.toNat / 128 * 128 + code.toNat % 2 := toNat_gresOf code
  rw [sresOf_eq_mergeField, toNat_mergeField, hkept, hcode]
  omega

theorem toNat_shtrOf (reg : Byte) (en : BitVec 1) :
    (shtrOf reg en).toNat = reg.toNat / 8 * 8 + en.toNat * 4 + reg.toNat % 4 := by
  have hkept : ∀ b : Byte, (b &&& ~~~htreMask).toNat = b.toNat / 8 * 8 + b.toNat % 4 := by decide +kernel
  have hen : ∀ en, (heaterField en).toNat = en.toNat * 4 := by decide
  rw [shtrOf_eq_mergeField, toNat_mergeField, hkept, heaterField_and_htreMask, hen]
  omega

theorem toNat_ofBool_getLsbD (b : Byte) (k : Nat) : (BitVec.ofBool (b.getLsbD k)).toNat = b.toNat / 2 ^ k % 2 :=
  (BitVec.toNat_ofBool _).trans (Nat.toNat_testBit b.toNat k)

theorem toNat_ghtrOf (reg : Byte) : (ghtrOf reg).toNat = reg.toNat / 4 % 2 := by
  rw [ghtrOf_eq_ofBool]
  exact toNat_ofBool_getLsbD reg 2

theorem toNat_vddStatusBit (reg : Byte) : (vddStatusBit (vddStatusOf reg)).toNat = reg.toNat / 64 % 2 := by
  rw [vddStatusBit_vddStatusOf]
  exact toNat_ofBool_getLsbD reg 6

theorem toNat_hdecOf (byte : Byte) : (hdecOf byte).toNat = byte.toNat % 16 := Nat.and_two_pow_sub_one_eq_mod byte.toNat 4

theorem hdecOf_of_le {byte : Byte} (h : byte.toNat ≤ 15) : hdecOf byte = byte := by
  apply BitVec.eq_of_toNat_eq
  rw [toNat_hdecOf, Nat.mod_eq_of_lt (by omega)]

/-- Bits 7 and 0 alone are one of the four codes (R52). -/
theorem exists_resolutionCode (reg : Byte) : ∃ mode, resolutionCode mode = gresOf reg := by
  have hcodes : ∀ reg : Byte, gresOf reg = 0x00 ∨ gresOf reg = 0x01 ∨ gresOf reg = 0x80 ∨ gresOf reg = 0x81 := by
    decide +kernel
  obtain h | h | h | h := hcodes reg
  exacts [⟨.bits12and14, h.symm⟩, ⟨.bits8and12, h.symm⟩, ⟨.bits10and13, h.symm⟩, ⟨.bits11and11, h.symm⟩]

/-! ## The operations -/

/-- Every operation of the family answers Ok with its result zero-extended (R43, R69). -/
theorem respond_setWidth {n : Nat} (v : BitVec n) (s : State) :
    (.next (respond .ok false (v.setWidth 32) s) : Result) = .next (afterAnswer s 0x00 (BitVec.ofNat 32 v.toNat)) := by
  rw [respond_ok_eq, BitVec.ofNat_toNat]

theorem exec_gres (reg : Byte) (s : State) :
    exec (.gres reg) s = .next (afterAnswer s 0x00 (BitVec.ofNat 32 (gresOf reg).toNat)) := respond_setWidth _ s

theorem exec_sres (reg code : Byte) (s : State) :
    exec (.sres reg code) s = .next (afterAnswer s 0x00 (BitVec.ofNat 32 (sresOf reg code).toNat)) := respond_setWidth _ s

theorem exec_ghtr (reg : Byte) (s : State) :
    exec (.ghtr reg) s = .next (afterAnswer s 0x00 (BitVec.ofNat 32 (ghtrOf reg).toNat)) := respond_setWidth _ s

theorem exec_shtr (reg : Byte) (en : BitVec 1) (s : State) :
    exec (.shtr reg en) s = .next (afterAnswer s 0x00 (BitVec.ofNat 32 (shtrOf reg en).toNat)) := respond_setWidth _ s

theorem exec_gvdd (reg : Byte) (s : State) :
    exec (.gvdd reg) s = .next (afterAnswer s 0x00 (BitVec.ofNat 32 (vddStatusBit (vddStatusOf reg)).toNat)) :=
  respond_setWidth _ s

theorem exec_hdec (byte : Byte) (s : State) :
    exec (.hdec byte) s = .next (afterAnswer s 0x00 (BitVec.ofNat 32 (hdecOf byte).toNat)) := respond_setWidth _ s

theorem exec_henc (value : Byte) (s : State) :
    exec (.henc value) s = .next (afterAnswer s 0x00 (BitVec.ofNat 32 (hencOf value).toNat)) := respond_setWidth _ s

/-- The host writes back the very byte that a merge returned (R79). -/
theorem writeBackByte_ofNat (st v : Byte) : writeBackByte ⟨st, BitVec.ofNat 32 v.toNat⟩ = v := by
  rw [writeBackByte, BitVec.ofNat_toNat, BitVec.extractLsb'_setWidth_of_le (by decide), BitVec.extractLsb'_eq_self]

/-! ## The obligations -/

/-- Settles O39: bits 7 and 0 as a number, and as one of the four codes. -/
theorem gresAnswersResolution : Obligations.GresAnswersResolution := by
  intro reg
  rw [← toNat_gresOf]
  obtain ⟨mode, hmode⟩ := exists_resolutionCode reg
  exact ⟨fun a => by simp [decode_eq], exec_gres reg, mode, congrArg BitVec.toNat hmode⟩

/-- Settles O40: the merge is the sum of the bits kept and the bits of the code. -/
theorem sresMergesResolution : Obligations.SresMergesResolution := by
  intro reg code
  rw [← toNat_sresOf]
  exact ⟨fun hi => by simp [decode_eq], exec_sres reg code⟩

/-- Settles O41: bit 2 as a number. -/
theorem ghtrAnswersHeaterEnable : Obligations.GhtrAnswersHeaterEnable := by
  intro reg
  rw [← toNat_ghtrOf]
  exact ⟨fun a => by simp [decode_eq], exec_ghtr reg⟩

/-- Settles O42: the merge is the sum of the bits kept and the enable in its place. -/
theorem shtrMergesHeaterEnable : Obligations.ShtrMergesHeaterEnable := by
  intro reg en
  rw [← toNat_shtrOf]
  exact ⟨fun hi => by simp [decode_eq], exec_shtr reg en⟩

/-- Settles O43: the status is carried as the bit it was read from. -/
theorem gvddAnswersVddBit : Obligations.GvddAnswersVddBit := by
  intro reg
  rw [← toNat_vddStatusBit]
  exact ⟨fun a => by simp [decode_eq], exec_gvdd reg⟩

/-- Settles O44: masking to the low nibble is the remainder by 16, in both directions. -/
theorem heaterCodecAnswersLowNibble : Obligations.HeaterCodecAnswersLowNibble := by
  intro byte
  rw [← toNat_hdecOf]
  refine ⟨fun a => ⟨by simp [decode_eq], by simp [decode_eq]⟩, fun s => ⟨exec_hdec byte s, ?_⟩⟩
  rw [exec_henc, hencOf_eq_hdecOf]

/-- Settles O45: the laws of a merge under one mask, and of two merges whose masks share no bit. -/
theorem registerCodecLaws : Obligations.RegisterCodecLaws := by
  constructor
  · intro b c e
    have hpass : ghtrOf (sresOf b c) = ghtrOf b ∧ (sresOf b c).getLsbD 6 = b.getLsbD 6 ∧
        (shtrOf b e).getLsbD 6 = b.getLsbD 6 :=
      ⟨ghtrOf_sresOf b c, getLsbD_sresOf_of_kept (by decide) b c, getLsbD_shtrOf_of_kept (by decide) b e⟩
    exact ⟨gresOf_sresOf b c, sresOf_and_kept b c, ghtrOf_shtrOf b e, ⟨shtrOf_and_kept b e, gresOf_shtrOf b e⟩, hpass,
      ⟨sresOf_gresOf b, shtrOf_ghtrOf b⟩, shtrOf_sresOf b c e, ⟨sresOf_idem b c, shtrOf_idem b e⟩⟩
  · intro b
    simp only [hencOf_eq_hdecOf]
    exact ⟨hdecOf_hdecOf b, hdecOf_hdecOf b, hdecOf_hdecOf b, hdecOf_hdecOf b,
      fun hb => ⟨hdecOf_of_le hb, hdecOf_of_le hb⟩⟩

/-- Settles O46: the byte written back is the merge's, so the read finds the merge's laws. -/
theorem driverReadsBackWhatItSet : Obligations.DriverReadsBackWhatItSet := by
  intro s s' reg code en
  refine ⟨⟨0x00, BitVec.ofNat 32 (sresOf reg code).toNat⟩, ⟨0x00, BitVec.ofNat 32 (shtrOf reg en).toNat⟩, ?_⟩
  rw [writeBackByte_ofNat, writeBackByte_ofNat]
  refine ⟨exec_sres reg code s, ?_, ?_, exec_shtr reg en s, ?_, fun k hk hne => ?_⟩
  · rw [driverRequest, exec_gres, gresOf_sresOf, toNat_gresOf]
  · rw [toNat_sresOf]
    omega
  · rw [driverRequest, exec_ghtr, ghtrOf_shtrOf]
  · refine getLsbD_shtrOf_of_kept ?_ reg en
    simp [getLsbD_htreMask k hk, hne]

end Machine
end Sys2Proof

/-! SUPPORT. Rounding to binary32 in ℚ (42_conversion.md R81): the exponent and the significand of a rational, the value of the
pattern they make and its distance from the rational; and the integer code of Machine/Binary32 as these (O48). -/

namespace Sys2Proof
namespace Machine

/-! ## Rounding to an integer -/

theorem abs_nearestEven_sub_le (m : ℚ) : |(nearestEven m : ℚ) - m| ≤ 1 / 2 := by
  have hlo := Int.floor_le m
  have hhi := Int.lt_floor_add_one m
  rw [nearestEven, abs_le]
  split
  case isTrue h =>
    have hf : 1 / 2 ≤ m - ⌊m⌋ := h.elim le_of_lt fun h => h.1.ge
    push_cast
    constructor <;> linarith
  case isFalse h =>
    have hf : m - ⌊m⌋ ≤ 1 / 2 := not_lt.mp (not_or.mp h).1
    constructor <;> linarith

theorem le_nearestEven {k : ℤ} {m : ℚ} (h : (k : ℚ) ≤ m) : k ≤ nearestEven m := by
  have hk : k ≤ ⌊m⌋ := Int.le_floor.mpr h
  unfold nearestEven
  split <;> omega

theorem nearestEven_le {k : ℤ} {m : ℚ} (h : m < k) : nearestEven m ≤ k := by
  have hk : ⌊m⌋ < k := Int.floor_lt.mpr h
  unfold nearestEven
  split <;> omega

/-- The integer form of the rounding: quotient and remainder for the floor and the fraction. -/
theorem roundTiesEven_eq_nearestEven (n : ℕ) {d : ℕ} (hd : 0 < d) : (roundTiesEven n d : ℤ) = nearestEven (n / d) := by
  have hd' : (0 : ℚ) < d := Nat.cast_pos.mpr hd
  have hfloor : ⌊(n / d : ℚ)⌋ = (n / d : ℕ) := Rat.floor_natCast_div_natCast n d
  have hfract : (n / d : ℚ) - ((n / d : ℕ) : ℤ) = (n % d : ℕ) / d := by
    rw [sub_eq_iff_eq_add, div_eq_iff hd'.ne', add_mul, div_mul_cancel₀ _ hd'.ne', Int.cast_natCast]
    exact_mod_cast (Nat.mod_add_div' n d).symm
  have hgt : (1 / 2 : ℚ) < (n % d : ℕ) / d ↔ d < 2 * (n % d) := by
    rw [lt_div_iff₀ hd', ← Nat.cast_lt (α := ℚ)]
    push_cast
    constructor <;> intro h <;> linarith
  have heq : ((n % d : ℕ) / d : ℚ) = 1 / 2 ↔ 2 * (n % d) = d := by
    rw [div_eq_iff hd'.ne', ← Nat.cast_inj (R := ℚ)]
    push_cast
    constructor <;> intro h <;> linarith
  have hodd : ((n / d : ℕ) : ℤ) % 2 = 1 ↔ n / d % 2 = 1 := by omega
  simp only [nearestEven, roundTiesEven, hfloor, hfract, gt_iff_lt, hgt, heq, hodd, Nat.cast_ite, Nat.cast_succ]

/-! ## The exponent and the significand -/

theorem log_two_eq {x : ℚ} {e : ℤ} (hx : 0 < x) (hlo : 2 ^ e ≤ x) (hhi : x < 2 ^ (e + 1)) : Int.log 2 x = e := by
  have h1 : e ≤ Int.log 2 x := (Int.zpow_le_iff_le_log one_lt_two hx).mp (by exact_mod_cast hlo)
  have h2 : Int.log 2 x < e + 1 := (Int.lt_zpow_iff_log_lt one_lt_two hx).mp (by exact_mod_cast hhi)
  omega

theorem le_log_two {x : ℚ} {k : ℤ} (h : 2 ^ k ≤ x) : k ≤ Int.log 2 x :=
  (Int.zpow_le_iff_le_log one_lt_two (lt_of_lt_of_le (by positivity) h)).mp (by exact_mod_cast h)

theorem log_two_le {x : ℚ} {k : ℤ} (hx : 0 < x) (h : x < 2 ^ (k + 1)) : Int.log 2 x ≤ k := by
  have h2 : Int.log 2 x < k + 1 := (Int.lt_zpow_iff_log_lt one_lt_two hx).mp (by exact_mod_cast h)
  omega

/-- n of R81 lies in [2^23, 2^24], the upper end being the carry out of the significand. -/
theorem significand_bounds {q : ℚ} (hq : q ≠ 0) :
    2 ^ 23 ≤ nearestEven (|q| / 2 ^ (Int.log 2 |q| - 23)) ∧ nearestEven (|q| / 2 ^ (Int.log 2 |q| - 23)) ≤ 2 ^ 24 := by
  have hpos : 0 < |q| := abs_pos.mpr hq
  have hlo : (2 : ℚ) ^ Int.log 2 |q| ≤ |q| := by exact_mod_cast Int.zpow_log_le_self one_lt_two hpos
  have hhi : |q| < (2 : ℚ) ^ (Int.log 2 |q| + 1) := by exact_mod_cast Int.lt_zpow_succ_log_self one_lt_two |q|
  have hu : (0 : ℚ) < 2 ^ (Int.log 2 |q| - 23) := by positivity
  constructor
  · apply le_nearestEven
    rw [le_div_iff₀ hu]
    calc ((2 ^ 23 : ℤ) : ℚ) * 2 ^ (Int.log 2 |q| - 23)
      _ = 2 ^ ((23 : ℤ) + (Int.log 2 |q| - 23)) := by rw [zpow_add₀ two_ne_zero]; norm_num
      _ ≤ |q| := by rwa [add_sub_cancel]
  · apply nearestEven_le
    rw [div_lt_iff₀ hu]
    calc |q|
      _ < 2 ^ (Int.log 2 |q| + 1) := hhi
      _ = 2 ^ ((24 : ℤ) + (Int.log 2 |q| - 23)) := by congr 1; ring
      _ = ((2 ^ 24 : ℤ) : ℚ) * 2 ^ (Int.log 2 |q| - 23) := by rw [zpow_add₀ two_ne_zero]; norm_num

/-- A power of two with its exponent split over numerator and denominator, so that both are integers. -/
theorem two_zpow_eq_div {k : ℤ} {a b : ℕ} (h : k = a - b) : (2 : ℚ) ^ k = 2 ^ a / 2 ^ b := by
  rw [h, zpow_sub₀ two_ne_zero, zpow_natCast, zpow_natCast]

/-- 2^k ≤ n / d, decided on integers. -/
theorem powLe_iff (k : ℤ) (n : ℕ) {d : ℕ} (hd : 0 < d) : powLe k n d = true ↔ (2 : ℚ) ^ k ≤ n / d := by
  have hd' : (0 : ℚ) < d := Nat.cast_pos.mpr hd
  have hk : (2 : ℚ) ^ k = 2 ^ k.toNat / 2 ^ (-k).toNat := two_zpow_eq_div (by omega)
  rw [powLe, decide_eq_true_iff, hk, div_le_div_iff₀ (by positivity) hd', ← Nat.cast_le (α := ℚ), mul_comm]
  push_cast
  rfl

theorem log2_bounds {n : ℕ} (hn : n ≠ 0) : (2 : ℚ) ^ (Nat.log2 n : ℤ) ≤ n ∧ (n : ℚ) < 2 ^ ((Nat.log2 n : ℤ) + 1) := by
  constructor
  · exact_mod_cast Nat.log2_self_le hn
  · exact_mod_cast Nat.lt_log2_self

/-- The exponent found from the two logarithms is e of R81. -/
theorem floorExp_eq_log {n d : ℕ} (hn : n ≠ 0) (hd : 0 < d) : floorExp n d = Int.log 2 (n / d : ℚ) := by
  have hd' : (0 : ℚ) < d := Nat.cast_pos.mpr hd
  have hpos : (0 : ℚ) < n / d := div_pos (Nat.cast_pos.mpr (Nat.pos_of_ne_zero hn)) hd'
  obtain ⟨hnlo, hnhi⟩ := log2_bounds hn
  obtain ⟨hdlo, hdhi⟩ := log2_bounds hd.ne'
  have hlo : (2 : ℚ) ^ ((Nat.log2 n : ℤ) - Nat.log2 d - 1) ≤ n / d := by
    rw [le_div_iff₀ hd']
    calc (2 : ℚ) ^ ((Nat.log2 n : ℤ) - Nat.log2 d - 1) * d
      _ ≤ 2 ^ ((Nat.log2 n : ℤ) - Nat.log2 d - 1) * 2 ^ ((Nat.log2 d : ℤ) + 1) := by gcongr
      _ = 2 ^ (Nat.log2 n : ℤ) := by rw [← zpow_add₀ two_ne_zero]; congr 1; ring
      _ ≤ n := hnlo
  have hhi : (n / d : ℚ) < 2 ^ ((Nat.log2 n : ℤ) - Nat.log2 d + 1) := by
    rw [div_lt_iff₀ hd']
    calc (n : ℚ)
      _ < 2 ^ ((Nat.log2 n : ℤ) + 1) := hnhi
      _ = 2 ^ ((Nat.log2 n : ℤ) - Nat.log2 d + 1) * 2 ^ (Nat.log2 d : ℤ) := by
        rw [← zpow_add₀ two_ne_zero]; congr 1; ring
      _ ≤ 2 ^ ((Nat.log2 n : ℤ) - Nat.log2 d + 1) * d := by gcongr
  rw [floorExp]
  split
  case isTrue h => exact (log_two_eq hpos ((powLe_iff _ n hd).mp h) hhi).symm
  case isFalse h =>
    rw [powLe_iff _ n hd, not_le] at h
    exact (log_two_eq hpos hlo (by rwa [sub_add_cancel])).symm

theorem significand_eq_nearestEven (n : ℕ) {d : ℕ} (hd : 0 < d) (e : ℤ) :
    (significand n d e : ℤ) = nearestEven (n / d / 2 ^ (e - 23) : ℚ) := by
  have hu : (2 : ℚ) ^ (e - 23) = 2 ^ (e - 23).toNat / 2 ^ (23 - e).toNat := two_zpow_eq_div (by omega)
  rw [significand, roundTiesEven_eq_nearestEven _ (by positivity), hu, div_div_div_eq]
  push_cast
  ring_nf

/-! ## The fields of a pattern -/

theorem exponentOf_eq (w : Word) : exponentOf w = w.toNat / 2 ^ 23 % 256 := by
  rw [exponentOf, BitVec.extractLsb'_toNat, Nat.shiftRight_eq_div_pow]

theorem fractionOf_eq (w : Word) : fractionOf w = w.toNat % 2 ^ 23 := by
  rw [fractionOf, BitVec.extractLsb'_toNat, Nat.shiftRight_zero]

/-- The sign of a pattern, as the factor R81 gives it. -/
def signFactor (neg : Bool) : ℚ := if neg then -1 else 1

theorem f32Rat_of_exponentOf_ne_zero {w : Word} (h : exponentOf w ≠ 0) :
    f32Rat w = signFactor (signOf w) * (2 ^ 23 + fractionOf w) * 2 ^ ((exponentOf w : ℤ) - 150) := by
  rw [exponentOf_eq] at h
  rw [f32Rat, exponentOf_eq, fractionOf_eq, if_neg h]
  rfl

/-- R81's value of a normal pattern, from its three fields. -/
theorem f32Rat_of_fields {w : Word} {neg : Bool} {e f : ℕ} (hs : signOf w = neg) (he : exponentOf w = e)
    (hf : fractionOf w = f) (h : e ≠ 0) : f32Rat w = signFactor neg * (2 ^ 23 + f) * 2 ^ ((e : ℤ) - 150) := by
  rw [f32Rat_of_exponentOf_ne_zero (he ▸ h), hs, he, hf]

theorem f32Rat_of_exponentOf_eq_zero {w : Word} (h : exponentOf w = 0) :
    f32Rat w = signFactor (signOf w) * fractionOf w / 2 ^ 149 := by
  rw [exponentOf_eq] at h
  rw [f32Rat, fractionOf_eq, if_pos h]
  rfl

/-- The integer form of `f32`, at every pattern. -/
theorem fracRat_f32 (w : Word) : fracRat (f32 w) = f32Rat w := by
  have hsign (m : ℕ) : ((if signOf w then -(m : ℤ) else m : ℤ) : ℚ) = signFactor (signOf w) * m := by
    cases signOf w <;> simp [signFactor]
  rw [fracRat, f32, hsign, magnitudeOf]
  split
  case isTrue h =>
    rw [f32Rat_of_exponentOf_eq_zero h]
    simp only [Nat.cast_pow, Nat.cast_ofNat]
  case isFalse h =>
    have hpow : (2 : ℚ) ^ ((exponentOf w : ℤ) - 150) = 2 ^ (exponentOf w - 150) / 2 ^ (150 - exponentOf w) :=
      two_zpow_eq_div (by omega)
    rw [f32Rat_of_exponentOf_ne_zero h, hpow]
    push_cast
    ring

theorem f32_den_pos (w : Word) : 0 < (f32 w).den := by
  have hden : (f32 w).den = (magnitudeOf w).2 := rfl
  rw [hden, magnitudeOf]
  split <;> exact Nat.two_pow_pos _

/-! ## The pattern of a sign, an exponent and a significand -/

section PatternOf

variable (neg : Bool) (e n : ℤ)

theorem signOf_patternOf : signOf (patternOf neg e n) = neg := by
  rw [signOf, patternOf, BitVec.getLsbD_append, if_neg (by decide), BitVec.getLsbD_append, if_neg (by decide)]
  exact BitVec.getLsbD_ofBool neg 0

theorem exponentOf_patternOf (hlo : -127 ≤ e) (hhi : e ≤ 128) : (exponentOf (patternOf neg e n) : ℤ) = e + 127 := by
  have hfield : (patternOf neg e n).extractLsb' 23 8 = BitVec.ofInt 8 (e + 127) := by
    apply BitVec.eq_of_getLsbD_eq
    intro k hk
    rw [BitVec.getLsbD_extractLsb', decide_eq_true hk, Bool.true_and, patternOf, BitVec.getLsbD_append,
      if_neg (by omega), BitVec.getLsbD_append, if_pos (by omega), Nat.add_sub_cancel_left]
  rw [exponentOf, hfield, BitVec.toNat_ofInt]
  omega

theorem fractionOf_patternOf (hlo : 2 ^ 23 ≤ n) (hhi : n < 2 ^ 24) : (fractionOf (patternOf neg e n) : ℤ) = n - 2 ^ 23 := by
  have hfield : (patternOf neg e n).extractLsb' 0 23 = BitVec.ofInt 23 (n - 2 ^ 23) := by
    apply BitVec.eq_of_getLsbD_eq
    intro k hk
    rw [BitVec.getLsbD_extractLsb', decide_eq_true hk, Bool.true_and, zero_add, patternOf, BitVec.getLsbD_append,
      if_pos hk]
  rw [fractionOf, hfield, BitVec.toNat_ofInt]
  omega

/-- The value R81 gives the pattern of a normal number. -/
theorem f32Rat_patternOf (helo : -126 ≤ e) (hehi : e ≤ 127) (hnlo : 2 ^ 23 ≤ n) (hnhi : n < 2 ^ 24) :
    f32Rat (patternOf neg e n) = signFactor neg * n * 2 ^ (e - 23) := by
  have hex : (exponentOf (patternOf neg e n) : ℤ) = e + 127 := exponentOf_patternOf neg e n (by omega) (by omega)
  have hfr : ((fractionOf (patternOf neg e n) : ℤ) : ℚ) = (n - 2 ^ 23 : ℤ) :=
    congrArg _ (fractionOf_patternOf neg e n hnlo hnhi)
  rw [Int.cast_sub, Int.cast_pow, Int.cast_ofNat, Int.cast_natCast] at hfr
  rw [f32Rat_of_exponentOf_ne_zero (by omega), signOf_patternOf, hex, hfr, add_sub_cancel]
  congr 2
  ring

theorem packBinary32_eq_patternOf {n : ℕ} (hn : 2 ^ 23 ≤ n) : packBinary32 neg e n = patternOf neg e n := by
  have hcast : ((n : ℤ) - 2 ^ 23) = ((n - 2 ^ 23 : ℕ) : ℤ) := by omega
  rw [packBinary32, patternOf, hcast, BitVec.ofInt_natCast]

end PatternOf

/-! ## The integer rounding is the rational one -/

theorem fracRat_neg_iff {q : Frac} (hd : 0 < q.den) : fracRat q < 0 ↔ q.num < 0 := by
  have hd' : (0 : ℚ) < q.den := Nat.cast_pos.mpr hd
  rw [fracRat, div_lt_iff₀ hd', zero_mul, Int.cast_lt_zero]

theorem abs_fracRat (q : Frac) : |fracRat q| = q.num.natAbs / q.den := by
  rw [fracRat, abs_div, Nat.abs_cast, Nat.cast_natAbs, Int.cast_abs]

/-- The integer `rne32` is the rational one at every fraction: neither its exponent nor its significand needs R81's range. -/
theorem rne32_eq_rne32Rat {q : Frac} (hd : 0 < q.den) : rne32 q = rne32Rat (fracRat q) := by
  by_cases h0 : q.num = 0
  · have hq : fracRat q = 0 := by rw [fracRat, h0, Int.cast_zero, zero_div]
    rw [rne32, rne32Rat, if_pos hq, if_pos (Int.natAbs_eq_zero.mpr h0)]
  · have ha : q.num.natAbs ≠ 0 := Int.natAbs_ne_zero.mpr h0
    have hq : fracRat q ≠ 0 := div_ne_zero (Int.cast_ne_zero.mpr h0) (Nat.cast_ne_zero.mpr hd.ne')
    have he : floorExp q.num.natAbs q.den = Int.log 2 |fracRat q| := by rw [abs_fracRat, floorExp_eq_log ha hd]
    have hn : (significand q.num.natAbs q.den (Int.log 2 |fracRat q|) : ℤ) =
        nearestEven (|fracRat q| / 2 ^ (Int.log 2 |fracRat q| - 23)) := by
      rw [significand_eq_nearestEven _ hd, abs_fracRat]
    have hlo : 2 ^ 23 ≤ significand q.num.natAbs q.den (Int.log 2 |fracRat q|) := by
      exact_mod_cast hn.symm ▸ (significand_bounds hq).1
    simp only [rne32, rne32Rat, if_neg ha, if_neg hq, he, ← hn, ← fracRat_neg_iff hd]
    have hcarry : significand q.num.natAbs q.den (Int.log 2 |fracRat q|) = 2 ^ 24 ↔
        (significand q.num.natAbs q.den (Int.log 2 |fracRat q|) : ℤ) = 2 ^ 24 := by omega
    rw [packBinary32_eq_patternOf _ _ hlo, packBinary32_eq_patternOf _ _ le_rfl]
    simp only [hcarry, Nat.cast_pow, Nat.cast_ofNat]

end Machine
end Sys2Proof

/-! SUPPORT. What rounding to binary32 keeps of a rational: a normal pattern, its granularity and its distance (R81). -/

namespace Sys2Proof
namespace Machine

/-- A pattern of a normal number: exponent field 1 to 254 (30_encoding.md R55). -/
def IsNormal (w : Word) : Prop := 1 ≤ exponentOf w ∧ exponentOf w ≤ 254

theorem patternOf_isNormal (neg : Bool) {e : ℤ} (n : ℤ) (hlo : -126 ≤ e) (hhi : e ≤ 127) : IsNormal (patternOf neg e n) := by
  have hex : (exponentOf (patternOf neg e n) : ℤ) = e + 127 := exponentOf_patternOf neg e n (by omega) (by omega)
  constructor <;> omega

/-- The rounding of a rational below 2^127 in magnitude is a normal number with the rounded significand; a carry out of the
significand goes to the exponent and leaves the value. -/
theorem rne32Rat_value {q : ℚ} (hlo : 2 ^ (-126 : ℤ) ≤ |q|) (hhi : |q| < 2 ^ (127 : ℤ)) :
    IsNormal (rne32Rat q) ∧ f32Rat (rne32Rat q) =
      signFactor (decide (q < 0)) * nearestEven (|q| / 2 ^ (Int.log 2 |q| - 23)) * 2 ^ (Int.log 2 |q| - 23) := by
  have hpos : 0 < |q| := lt_of_lt_of_le (by positivity) hlo
  have hq : q ≠ 0 := abs_pos.mp hpos
  have helo : -126 ≤ Int.log 2 |q| := le_log_two hlo
  have hehi : Int.log 2 |q| ≤ 126 := log_two_le hpos hhi
  obtain ⟨hnlo, hnhi⟩ := significand_bounds hq
  simp only [rne32Rat, if_neg hq]
  split
  case isTrue hcarry =>
    refine ⟨patternOf_isNormal _ _ (by omega) (by omega), ?_⟩
    have hexp : (2 : ℚ) ^ (Int.log 2 |q| + 1 - 23) = 2 * 2 ^ (Int.log 2 |q| - 23) := by
      rw [show Int.log 2 |q| + 1 - 23 = 1 + (Int.log 2 |q| - 23) by ring, zpow_add₀ two_ne_zero, zpow_one]
    rw [f32Rat_patternOf _ _ _ (by omega) (by omega) le_rfl (by norm_num), hcarry, hexp]
    push_cast
    ring
  case isFalse hcarry =>
    refine ⟨patternOf_isNormal _ _ (by omega) (by omega), ?_⟩
    exact f32Rat_patternOf _ _ _ (by omega) (by omega) hnlo (lt_of_le_of_ne hnhi hcarry)

theorem signFactor_mul_abs (q : ℚ) : signFactor (decide (q < 0)) * |q| = q := by
  by_cases h : q < 0
  · simp [signFactor, h, abs_of_neg]
  · simp [signFactor, h, abs_of_nonneg (not_lt.mp h)]

theorem exists_int_eq_signFactor (neg : Bool) : ∃ σ : ℤ, signFactor neg = σ :=
  ⟨if neg then -1 else 1, by cases neg <;> simp [signFactor]⟩

theorem abs_signFactor (neg : Bool) : |signFactor neg| = 1 := by
  cases neg <;> simp [signFactor]

/-- Rounding is to a multiple of 2^(e-23) at most half of it away, e being the exponent of the rational. -/
theorem rne32Rat_nearest {q : ℚ} (hlo : 2 ^ (-126 : ℤ) ≤ |q|) (hhi : |q| < 2 ^ (127 : ℤ)) :
    ∃ n : ℤ, f32Rat (rne32Rat q) = n * 2 ^ (Int.log 2 |q| - 23) ∧
      |f32Rat (rne32Rat q) - q| ≤ 1 / 2 * 2 ^ (Int.log 2 |q| - 23) := by
  obtain ⟨-, hval⟩ := rne32Rat_value hlo hhi
  have hu : (0 : ℚ) < 2 ^ (Int.log 2 |q| - 23) := by positivity
  obtain ⟨σ, hσ⟩ := exists_int_eq_signFactor (decide (q < 0))
  refine ⟨σ * nearestEven (|q| / 2 ^ (Int.log 2 |q| - 23)), by rw [hval, hσ, Int.cast_mul], ?_⟩
  calc |f32Rat (rne32Rat q) - q|
    _ = |signFactor (decide (q < 0)) * ((nearestEven (|q| / 2 ^ (Int.log 2 |q| - 23)) - |q| / 2 ^ (Int.log 2 |q| - 23)) *
          2 ^ (Int.log 2 |q| - 23))| := by
      rw [sub_mul, div_mul_cancel₀ _ hu.ne', mul_sub, signFactor_mul_abs, hval, mul_assoc]
    _ = |nearestEven (|q| / 2 ^ (Int.log 2 |q| - 23)) - |q| / 2 ^ (Int.log 2 |q| - 23)| * 2 ^ (Int.log 2 |q| - 23) := by
      rw [abs_mul, abs_signFactor, one_mul, abs_mul, abs_of_pos hu]
    _ ≤ 1 / 2 * 2 ^ (Int.log 2 |q| - 23) := by
      gcongr
      exact abs_nearestEven_sub_le _

/-- A multiple of a power of two is a multiple of each smaller one. -/
theorem exists_int_mul_two_zpow (n : ℤ) {j k : ℤ} (h : j ≤ k) : ∃ m : ℤ, (n * 2 ^ k : ℚ) = m * 2 ^ j := by
  refine ⟨n * 2 ^ (k - j).toNat, ?_⟩
  have hk : (2 : ℚ) ^ k = 2 ^ (k - j).toNat * 2 ^ j := by
    rw [← zpow_natCast, Int.toNat_of_nonneg (by omega), ← zpow_add₀ two_ne_zero, sub_add_cancel]
  rw [hk]
  push_cast
  ring

/-- Half a unit in the last place bounds the error of a rounding. -/
theorem abs_rne32Rat_sub_le {q : ℚ} {k : ℤ} (hlo : 2 ^ (-126 : ℤ) ≤ |q|) (hhi : |q| < 2 ^ (k + 1)) (hk : k ≤ 126) :
    |f32Rat (rne32Rat q) - q| ≤ 1 / 2 * 2 ^ (k - 23) := by
  have hpos : 0 < |q| := lt_of_lt_of_le (by positivity) hlo
  have hmax : |q| < 2 ^ (127 : ℤ) := hhi.trans_le (zpow_le_zpow_right₀ one_le_two (by omega))
  obtain ⟨-, -, herr⟩ := rne32Rat_nearest hlo hmax
  have hexp : (2 : ℚ) ^ (Int.log 2 |q| - 23) ≤ 2 ^ (k - 23) :=
    zpow_le_zpow_right₀ one_le_two (by linarith [log_two_le hpos hhi])
  linarith

/-- A rational of 2^k or more in magnitude is rounded to a multiple of 2^(k-23). -/
theorem exists_rne32Rat_eq_mul {q : ℚ} {k : ℤ} (hk : 2 ^ k ≤ |q|) (hlo : -126 ≤ k) (hhi : |q| < 2 ^ (127 : ℤ)) :
    ∃ n : ℤ, f32Rat (rne32Rat q) = n * 2 ^ (k - 23) := by
  obtain ⟨n, hn, -⟩ := rne32Rat_nearest ((zpow_le_zpow_right₀ one_le_two hlo).trans hk) hhi
  rw [hn]
  exact exists_int_mul_two_zpow n (by linarith [le_log_two hk])

/-- A multiple of 2^(k-23) below 2^(k+1) in magnitude has 24 significant bits at most and is not rounded (R84). -/
theorem rne32Rat_exact {q : ℚ} {n k : ℤ} (hq : q = n * 2 ^ (k - 23)) (hlo : 2 ^ (-126 : ℤ) ≤ |q|) (hhi : |q| < 2 ^ (k + 1))
    (hk : k ≤ 126) : f32Rat (rne32Rat q) = q := by
  have hpos : 0 < |q| := lt_of_lt_of_le (by positivity) hlo
  have hmax : |q| < 2 ^ (127 : ℤ) := hhi.trans_le (zpow_le_zpow_right₀ one_le_two (by omega))
  obtain ⟨a, ha, herr⟩ := rne32Rat_nearest hlo hmax
  obtain ⟨b, hb⟩ := exists_int_mul_two_zpow n (show Int.log 2 |q| - 23 ≤ k - 23 by linarith [log_two_le hpos hhi])
  have hu : (0 : ℚ) < 2 ^ (Int.log 2 |q| - 23) := by positivity
  have hqb : q = b * 2 ^ (Int.log 2 |q| - 23) := hq.trans hb
  have hab : |(a - b : ℚ)| ≤ 1 / 2 := by
    have hdiff : f32Rat (rne32Rat q) - q = (a - b) * 2 ^ (Int.log 2 |q| - 23) := by rw [sub_mul, ← ha, ← hqb]
    rw [hdiff, abs_mul, abs_of_pos hu] at herr
    exact le_of_mul_le_mul_right herr hu
  have heq : a = b := by
    have hlt : |a - b| < 1 := by
      have : ((|a - b| : ℤ) : ℚ) < 1 := by
        push_cast
        linarith
      exact_mod_cast this
    rw [abs_lt] at hlt
    omega
  rw [ha, heq, ← hqb]

end Machine
end Sys2Proof

/-! SUPPORT. The conversions in ℚ (42_conversion.md): the model's fractions as the rationals they stand for, what each
conversion rounds, and how far its result is from the exact value. -/

namespace Sys2Proof
namespace Machine

/-! ## Fractions -/

@[simp] theorem fracRat_fracOfInt (n : ℤ) : fracRat (fracOfInt n) = n := by simp [fracRat, fracOfInt]

@[simp] theorem fracRat_fracMul (a b : Frac) : fracRat (fracMul a b) = fracRat a * fracRat b := by
  simp [fracRat, fracMul, div_mul_div_comm]

@[simp] theorem fracRat_fracDivNat (a : Frac) (k : ℕ) : fracRat (fracDivNat a k) = fracRat a / k := by
  simp [fracRat, fracDivNat, div_div]

theorem fracRat_fracSub {a b : Frac} (ha : 0 < a.den) (hb : 0 < b.den) : fracRat (fracSub a b) = fracRat a - fracRat b := by
  have ha' : (a.den : ℚ) ≠ 0 := Nat.cast_ne_zero.mpr ha.ne'
  have hb' : (b.den : ℚ) ≠ 0 := Nat.cast_ne_zero.mpr hb.ne'
  rw [fracRat, fracRat, fracRat, div_sub_div _ _ ha' hb', fracSub]
  push_cast
  ring

@[simp] theorem fracRat_fracOfRaw (raw : Half) : fracRat (fracOfRaw raw) = raw.toNat := by
  rw [fracOfRaw, fracRat_fracOfInt, Int.cast_natCast]

@[simp] theorem fracRat_tScale : fracRat tScale = 17572 / 100 := by simp [fracRat, tScale]
@[simp] theorem fracRat_tOffset : fracRat tOffset = 4685 / 100 := by simp [fracRat, tOffset]
@[simp] theorem fracRat_hScale : fracRat hScale = 125 := by simp [fracRat, hScale]
@[simp] theorem fracRat_hOffset : fracRat hOffset = 6 := by simp [fracRat, hOffset]

/-- The model's fraction is `Texact` (R80). -/
theorem fracRat_texact (raw : Half) : fracRat (texact raw) = texactRat raw := by
  have hden : 0 < (fracDivNat (fracMul (fracOfRaw raw) tScale) countSpan).den := show 0 < 1 * 100 * 65536 by decide
  rw [texact, fracRat_fracSub hden (by decide)]
  simp [texactRat, countSpan]

/-- The model's fraction is `Hexact` (R80). -/
theorem fracRat_hexact (raw : Half) : fracRat (hexact raw) = hexactRat raw := by
  have hden : 0 < (fracDivNat (fracMul hScale (fracOfRaw raw)) countSpan).den := show 0 < 1 * 1 * 65536 by decide
  rw [hexact, fracRat_fracSub hden (by decide)]
  simp [hexactRat, countSpan]

/-- R80, the second form of the temperature. -/
theorem texactRat_eq (raw : Half) : texactRat raw = (4393 * (raw.toNat : ℚ) - 76759040) / 1638400 := by
  rw [texactRat]
  ring

/-- R80, the second form of the humidity. -/
theorem hexactRat_eq (raw : Half) : hexactRat raw = (125 * (raw.toNat : ℚ) - 393216) / 65536 := by
  rw [hexactRat]
  ring

theorem toNat_cast_le (raw : Half) : (raw.toNat : ℚ) ≤ 65535 := by
  have h : raw.toNat ≤ 65535 := Nat.le_of_lt_succ raw.isLt
  exact_mod_cast h

/-! ## The humidity -/

theorem hum32_eq (raw : Half) : hum32 raw = humRat raw := by
  have hden : 0 < (hexact raw).den := show 0 < 1 * 1 * 65536 * 1 by decide
  rw [hum32, humRat, rne32_eq_rne32Rat hden, fracRat_hexact]

/-- The humidity changes sign between two raw counts and is never zero (R89). -/
theorem le_abs_hexactRat (raw : Half) : 17 / 32768 ≤ |hexactRat raw| := by
  rw [hexactRat_eq, le_abs]
  obtain h | h : raw.toNat ≤ 3145 ∨ 3146 ≤ raw.toNat := by omega
  · have h' : (raw.toNat : ℚ) ≤ 3145 := by exact_mod_cast h
    right
    linarith
  · have h' : (3146 : ℚ) ≤ raw.toNat := by exact_mod_cast h
    left
    linarith

theorem hexactRat_bounds (raw : Half) : -6 ≤ hexactRat raw ∧ hexactRat raw < 119 := by
  have hlo : (0 : ℚ) ≤ raw.toNat := Nat.cast_nonneg _
  have hhi := toNat_cast_le raw
  rw [hexactRat_eq]
  constructor <;> linarith

theorem hexactRat_normal_range (raw : Half) : 2 ^ (-126 : ℤ) ≤ |hexactRat raw| ∧ |hexactRat raw| < 2 ^ (7 : ℤ) := by
  obtain ⟨hlo, hhi⟩ := hexactRat_bounds raw
  have hpow : (2 : ℚ) ^ (7 : ℤ) = 128 := by norm_num
  rw [hpow, abs_lt]
  exact ⟨le_trans (by norm_num) (le_abs_hexactRat raw), by linarith, by linarith⟩

/-- The humidity has 23 significant bits at most and is not rounded (R84). -/
theorem f32Rat_humRat (raw : Half) : f32Rat (humRat raw) = hexactRat raw := by
  obtain ⟨hlo, hhi⟩ := hexactRat_normal_range raw
  have hmul : hexactRat raw = (2 * (125 * raw.toNat - 393216) : ℤ) * 2 ^ ((6 : ℤ) - 23) := by
    rw [hexactRat_eq]
    norm_num
    ring
  exact rne32Rat_exact hmul hlo hhi (by decide)

theorem hum32_isNormal (raw : Half) : IsNormal (hum32 raw) := by
  obtain ⟨hlo, hhi⟩ := hexactRat_normal_range raw
  rw [hum32_eq]
  exact (rne32Rat_value hlo (hhi.trans (by norm_num))).1

theorem f32Rat_hum32 (raw : Half) : f32Rat (hum32 raw) = hexactRat raw := by
  rw [hum32_eq, f32Rat_humRat]

/-! ## The temperature -/

/-- The rational that a mode rounds last (R82, R83). -/
def tempArg (mode : TempNumericMode) (raw : Half) : ℚ :=
  match mode with
  | .exactRne32 => texactRat raw
  | .f32Stepwise => f32Rat (rne32Rat (raw.toNat * f32Rat c1Bits)) / 65536 - f32Rat c2Bits

theorem temp32_eq (mode : TempNumericMode) (raw : Half) : temp32 mode raw = rne32Rat (tempArg mode raw) := by
  cases mode with
  | exactRne32 =>
    have hden : 0 < (texact raw).den := show 0 < 1 * 100 * 65536 * 100 by decide
    exact (rne32_eq_rne32Rat hden).trans (congrArg rne32Rat (fracRat_texact raw))
  | f32Stepwise =>
    have hprod : 0 < (fracMul (fracOfRaw raw) (f32 c1Bits)).den := Nat.mul_pos one_pos (f32_den_pos _)
    have hquot (p : Word) : 0 < (fracDivNat (f32 p) countSpan).den := Nat.mul_pos (f32_den_pos p) (by decide)
    have hdiff (p : Word) : 0 < (fracSub (fracDivNat (f32 p) countSpan) (f32 c2Bits)).den :=
      Nat.mul_pos (hquot p) (f32_den_pos _)
    rw [temp32, tempStepwise, rne32_eq_rne32Rat (hdiff _), fracRat_fracSub (hquot _) (f32_den_pos _), rne32_eq_rne32Rat hprod]
    simp [fracRat_f32, tempArg, countSpan]

theorem tempRat_eq (mode : TempNumericMode) (raw : Half) : tempRat mode raw = rne32Rat (tempArg mode raw) := by
  cases mode <;> rfl

theorem temp32_zero (mode : TempNumericMode) : temp32 mode 0 = 0xC23B6666 := by
  cases mode <;> decide +kernel

theorem temp32_eq_tempResult (mode : TempNumericMode) (raw : Half) : temp32 mode raw = tempResult mode raw := by
  rw [tempResult]
  split
  case isTrue h => rw [h, temp32_zero]
  case isFalse => rw [temp32_eq, tempRat_eq]

/-- The temperature changes sign between two raw counts and is never zero (R89). -/
theorem le_abs_texactRat (raw : Half) : 151 / 1638400 ≤ |texactRat raw| := by
  rw [texactRat_eq, le_abs]
  obtain h | h : raw.toNat ≤ 17473 ∨ 17474 ≤ raw.toNat := by omega
  · have h' : (raw.toNat : ℚ) ≤ 17473 := by exact_mod_cast h
    right
    linarith
  · have h' : (17474 : ℚ) ≤ raw.toNat := by exact_mod_cast h
    left
    linarith

theorem texactRat_bounds (raw : Half) : -4685 / 100 ≤ texactRat raw ∧ texactRat raw ≤ 42227243 / 327680 := by
  have hlo : (0 : ℚ) ≤ raw.toNat := Nat.cast_nonneg _
  have hhi := toNat_cast_le raw
  rw [texactRat_eq]
  constructor <;> linarith

theorem f32Rat_c1Bits : f32Rat c1Bits = 5757993 / 32768 := by
  rw [f32Rat_of_fields (w := c1Bits) (neg := false) (e := 134) (f := 3127378) (by decide) (by decide) (by decide) (by decide)]
  norm_num [signFactor]

theorem f32Rat_c2Bits : f32Rat c2Bits = 6140723 / 131072 := by
  rw [f32Rat_of_fields (w := c2Bits) (neg := false) (e := 132) (f := 3892838) (by decide) (by decide) (by decide) (by decide)]
  norm_num [signFactor]

/-- The product of the stepwise mode is below 2^24, so half a unit in its last place is at most 1/2. -/
theorem abs_product_sub_le (raw : Half) :
    |f32Rat (rne32Rat (raw.toNat * f32Rat c1Bits)) - raw.toNat * f32Rat c1Bits| ≤ 1 / 2 := by
  by_cases h0 : raw.toNat = 0
  · have hzero : f32Rat (rne32Rat 0) = 0 := by
      rw [rne32Rat, if_pos rfl, f32Rat_of_exponentOf_eq_zero (by decide)]
      norm_num [show fractionOf 0x00000000 = 0 by decide]
    rw [h0, Nat.cast_zero, zero_mul, hzero, sub_zero, abs_zero]
    norm_num
  · have hlo : (1 : ℚ) ≤ raw.toNat := by exact_mod_cast Nat.pos_of_ne_zero h0
    have hhi := toNat_cast_le raw
    have habs : |raw.toNat * f32Rat c1Bits| = raw.toNat * (5757993 / 32768) := by
      rw [f32Rat_c1Bits, abs_of_nonneg (by positivity)]
    have hleast : (2 : ℚ) ^ (-126 : ℤ) ≤ 1 := by norm_num
    have hgreatest : (2 : ℚ) ^ ((23 : ℤ) + 1) = 16777216 := by norm_num
    refine (abs_rne32Rat_sub_le (k := 23) ?_ ?_ (by decide)).trans (by norm_num) <;> rw [habs] <;> linarith

/-- What a mode rounds last is within 17/1638400 of the exact temperature. -/
theorem abs_tempArg_sub_le (mode : TempNumericMode) (raw : Half) : |tempArg mode raw - texactRat raw| ≤ 17 / 1638400 := by
  cases mode with
  | exactRne32 =>
    rw [tempArg, sub_self, abs_zero]
    norm_num
  | f32Stepwise =>
    have hlo : (0 : ℚ) ≤ raw.toNat := Nat.cast_nonneg _
    have hhi := toNat_cast_le raw
    obtain ⟨h1, h2⟩ := abs_le.mp (abs_product_sub_le raw)
    rw [f32Rat_c1Bits] at h1 h2
    rw [tempArg, f32Rat_c1Bits, f32Rat_c2Bits, texactRat_eq, abs_le]
    constructor <;> linarith

theorem tempArg_normal_range (mode : TempNumericMode) (raw : Half) :
    2 ^ (-126 : ℤ) ≤ |tempArg mode raw| ∧ |tempArg mode raw| < 2 ^ (8 : ℤ) := by
  have hleast := le_abs_texactRat raw
  obtain ⟨hlo, hhi⟩ := texactRat_bounds raw
  have hnear := abs_tempArg_sub_le mode raw
  have htri := abs_sub_abs_le_abs_sub (texactRat raw) (tempArg mode raw)
  rw [abs_sub_comm] at htri
  have hpow : (2 : ℚ) ^ (8 : ℤ) = 256 := by norm_num
  refine ⟨le_trans (b := 134 / 1638400) (by norm_num) (by linarith), ?_⟩
  rw [abs_le] at hnear
  rw [hpow, abs_lt]
  constructor <;> linarith

theorem temp32_isNormal (mode : TempNumericMode) (raw : Half) : IsNormal (temp32 mode raw) := by
  obtain ⟨hlo, hhi⟩ := tempArg_normal_range mode raw
  rw [temp32_eq]
  exact (rne32Rat_value hlo (hhi.trans (by norm_num))).1

/-- A multiple of 2^-16 and a temperature differ by a multiple of 1/1638400. -/
theorem abs_sub_texactRat_le_of_lt {n k : ℤ} {raw : Half}
    (h : |n * 2 ^ (-16 : ℤ) - texactRat raw| < (k + 1) / 1638400) : |n * 2 ^ (-16 : ℤ) - texactRat raw| ≤ k / 1638400 := by
  have hdiff : n * 2 ^ (-16 : ℤ) - texactRat raw = ((25 * n - (4393 * raw.toNat - 76759040) : ℤ) : ℚ) / 1638400 := by
    rw [texactRat_eq]
    norm_num
    ring
  rw [hdiff, abs_div, abs_of_pos (by norm_num : (0 : ℚ) < 1638400)] at h ⊢
  have hlt : |25 * n - (4393 * raw.toNat - 76759040)| < k + 1 := by
    exact_mod_cast lt_of_mul_lt_mul_right ((div_lt_div_iff₀ (by norm_num) (by norm_num)).mp h) (by norm_num)
  have hle : ((|25 * n - (4393 * raw.toNat - 76759040)| : ℤ) : ℚ) ≤ k := by exact_mod_cast Int.lt_add_one_iff.mp hlt
  rw [Int.cast_abs] at hle
  gcongr

/-- The last rounding adds 12/1638400 to the distance of what it rounds. From 128 on half a unit in the last place is
12.5/1638400, but there the distance is a multiple of 1/1638400; below 128 half a unit is 2^-18 at most. -/
theorem abs_temp32_sub_le_of_near {mode : TempNumericMode} {raw : Half} {d : ℤ}
    (hd : |tempArg mode raw - texactRat raw| ≤ d / 1638400) :
    |f32Rat (temp32 mode raw) - texactRat raw| ≤ ((d + 12 : ℤ) : ℚ) / 1638400 := by
  obtain ⟨hlo, hhi⟩ := tempArg_normal_range mode raw
  have htri := abs_sub_le (f32Rat (temp32 mode raw)) (tempArg mode raw) (texactRat raw)
  rw [temp32_eq] at htri ⊢
  obtain h | h := lt_or_ge |tempArg mode raw| (2 ^ (7 : ℤ))
  · have herr := (abs_rne32Rat_sub_le (k := 6) hlo h (by decide)).trans_eq
      (show (1 / 2 * 2 ^ ((6 : ℤ) - 23) : ℚ) = 1 / 262144 by norm_num)
    push_cast
    linarith
  · have herr := (abs_rne32Rat_sub_le (k := 7) hlo hhi (by decide)).trans_eq
      (show (1 / 2 * 2 ^ ((7 : ℤ) - 23) : ℚ) = 1 / 131072 by norm_num)
    obtain ⟨n, hn⟩ := exists_rne32Rat_eq_mul h (by decide) (hhi.trans (by norm_num))
    have hlt : |f32Rat (rne32Rat (tempArg mode raw)) - texactRat raw| < ((d + 12 : ℤ) + 1) / 1638400 := by
      push_cast
      linarith
    rw [hn] at hlt ⊢
    exact abs_sub_texactRat_le_of_lt hlt

theorem abs_temp32_exact_sub_le (raw : Half) : |f32Rat (temp32 .exactRne32 raw) - texactRat raw| ≤ 12 / 1638400 := by
  have hd : |tempArg .exactRne32 raw - texactRat raw| ≤ (0 : ℤ) / 1638400 := by simp [tempArg]
  exact (abs_temp32_sub_le_of_near hd).trans (by norm_num)

theorem abs_temp32_sub_le (mode : TempNumericMode) (raw : Half) :
    |f32Rat (temp32 mode raw) - texactRat raw| ≤ 29 / 1638400 := by
  have hd : |tempArg mode raw - texactRat raw| ≤ (17 : ℤ) / 1638400 := by simpa using abs_tempArg_sub_le mode raw
  exact (abs_temp32_sub_le_of_near hd).trans (by norm_num)

/-- The step of the exact temperature, 4393/1638400, is more than twice the error of a result. -/
theorem f32Rat_temp32_lt (mode : TempNumericMode) {a b : Half} (h : a.toNat < b.toNat) :
    f32Rat (temp32 mode a) < f32Rat (temp32 mode b) := by
  have hstep : (a.toNat : ℚ) + 1 ≤ b.toNat := by exact_mod_cast h
  have ha := (abs_le.mp (abs_temp32_sub_le mode a)).2
  have hb := (abs_le.mp (abs_temp32_sub_le mode b)).1
  rw [texactRat_eq] at ha hb
  linarith

theorem f32Rat_hum32_lt {a b : Half} (h : a.toNat < b.toNat) : f32Rat (hum32 a) < f32Rat (hum32 b) := by
  have hstep : (a.toNat : ℚ) + 1 ≤ b.toNat := by exact_mod_cast h
  rw [f32Rat_hum32, f32Rat_hum32, hexactRat_eq, hexactRat_eq]
  linarith

/-- The least result is that of raw 0, the binary32 nearest -46.85, which is above it (R85). -/
theorem f32Rat_temp32_range (mode : TempNumericMode) (raw : Half) :
    -4685 / 100 ≤ f32Rat (temp32 mode raw) ∧ f32Rat (temp32 mode raw) ≤ 12887 / 100 := by
  have hzero : f32Rat (temp32 mode 0) = -(6140723 / 131072) := by
    rw [temp32_zero, f32Rat_of_fields (w := 0xC23B6666) (neg := true) (e := 132) (f := 3892838) (by decide) (by decide)
      (by decide) (by decide)]
    norm_num [signFactor]
  have hle : f32Rat (temp32 mode 0) ≤ f32Rat (temp32 mode raw) := by
    obtain h | h := Nat.eq_zero_or_pos raw.toNat
    · rw [BitVec.eq_of_toNat_eq (x := raw) (y := 0) h]
    · exact (f32Rat_temp32_lt mode (a := 0) h).le
  have herr := (abs_le.mp (abs_temp32_sub_le mode raw)).2
  have hmax := (texactRat_bounds raw).2
  constructor <;> linarith

end Machine
end Sys2Proof

/-! SUPPORT. The conversion operations and the readings (42_conversion.md R85 to R89), what an answer never carries, and the
obligations of the family. -/

namespace Sys2Proof
namespace Machine

/-! ## The operations -/

theorem exec_cvt (raw : Half) (s : State) :
    exec (.cvt raw) s = .next (afterAnswer s 0x00 (temp32 s.config.tempNumericMode raw)) :=
  congrArg Host.Outcome.next (respond_ok_eq _ _)

theorem exec_cvh (raw : Half) (s : State) : exec (.cvh raw) s = .next (afterAnswer s 0x00 (hum32 raw)) :=
  congrArg Host.Outcome.next (respond_ok_eq _ _)

theorem exec_chk (value : Half) (crc : Byte) (s : State) :
    exec (.chk value crc) s = .next (processReading value crc resultHalf s) := rfl

theorem exec_meat (value : Half) (crc : Byte) (s : State) :
    exec (.meat value crc) s = .next (processReading value crc (temp32 s.config.tempNumericMode) s) := rfl

theorem exec_meah (value : Half) (crc : Byte) (s : State) :
    exec (.meah value crc) s = .next (processReading value crc hum32 s) := rfl

/-- The policy for any conversion: convert and flag, or withhold (R87, R88). -/
theorem processReading_underPolicy (value : Half) (crc : Byte) (convert : Half → Word) (s : State) :
    (validate value crc = true ∨ s.ctrl.getLsbD 0 = false → processReading value crc convert s =
      afterAnswer s (if validate value crc then 0x00 else 0x10) (convert (maskValue value))) ∧
    (validate value crc = false → s.ctrl.getLsbD 0 = true → processReading value crc convert s = afterAnswer s 0x18 0) := by
  cases hv : validate value crc with
  | true => exact ⟨fun _ => processReading_of_valid hv convert s, nofun⟩
  | false =>
    refine ⟨fun hsoft => ?_, fun _ hstrict => processReading_of_strict hv hstrict convert⟩
    exact processReading_of_soft hv (hsoft.resolve_left Bool.false_ne_true) convert

/-- The status of a reading's answer, and whether it is converted, do not depend on the conversion. -/
theorem processReading_status_uniform (value : Half) (crc : Byte) (s : State) :
    ∃ st, (stCode st = 0 ∧ ∀ convert, processReading value crc convert s = afterAnswer s st (convert (maskValue value))) ∨
      (stCode st ≠ 0 ∧ ∀ convert, processReading value crc convert s = afterAnswer s st 0) := by
  cases hv : validate value crc with
  | true => exact ⟨0x00, .inl ⟨by decide, fun convert => processReading_of_valid hv convert s⟩⟩
  | false =>
    cases hs : s.ctrl.getLsbD 0 with
    | false => exact ⟨0x10, .inl ⟨by decide, fun convert => processReading_of_soft hv hs convert⟩⟩
    | true => exact ⟨0x18, .inr ⟨by decide, fun convert => processReading_of_strict hv hs convert⟩⟩

/-- CHK's result in R[15:0] is the masked value (R43). -/
theorem setWidth_resultHalf (v : Half) : (resultHalf v).setWidth 16 = v := by
  rw [resultHalf, BitVec.setWidth_setWidth_of_le v (by decide), BitVec.setWidth_eq]

/-! ## The sentinel -/

theorem f32Rat_sentinelBits : f32Rat sentinelBits = -999 := by
  rw [f32Rat_of_fields (w := sentinelBits) (neg := true) (e := 136) (f := 7979008) (by decide) (by decide) (by decide)
    (by decide)]
  norm_num [signFactor]

theorem temp32_ne_sentinelBits (mode : TempNumericMode) (raw : Half) : temp32 mode raw ≠ sentinelBits := by
  intro h
  have hlo := (f32Rat_temp32_range mode raw).1
  rw [h, f32Rat_sentinelBits] at hlo
  norm_num at hlo

theorem hum32_ne_sentinelBits (raw : Half) : hum32 raw ≠ sentinelBits := by
  intro h
  have hlo := (hexactRat_bounds raw).1
  rw [← f32Rat_hum32, h, f32Rat_sentinelBits] at hlo
  norm_num at hlo

/-- An integer result has R[31:16] clear (R43), which the sentinel has not. -/
theorem setWidth_ne_sentinelBits {n : Nat} (hn : n ≤ 16) (v : BitVec n) : v.setWidth 32 ≠ sentinelBits := by
  intro h
  have hv : v.toNat < 65536 := v.isLt.trans_le (Nat.pow_le_pow_right two_pos hn)
  have hnat := congrArg BitVec.toNat h
  rw [BitVec.toNat_setWidth_of_le (by omega)] at hnat
  have hs : sentinelBits.toNat = 0xC479C000 := rfl
  omega

theorem resultByte_ne_sentinelBits (v : Byte) : resultByte v ≠ sentinelBits := setWidth_ne_sentinelBits (by decide) v

theorem resultHalf_ne_sentinelBits (v : Half) : resultHalf v ≠ sentinelBits := setWidth_ne_sentinelBits le_rfl v

theorem resultBit_ne_sentinelBits (v : BitVec 1) : resultBit v ≠ sentinelBits := setWidth_ne_sentinelBits (by decide) v

/-- The operation answers once, and not with the sentinel in R. -/
def AnswersOtherThanSentinel (s : State) (o : Result) : Prop :=
  ∃ t x, o = .next t ∧ t.outbox = s.outbox ++ [x] ∧ x.r ≠ sentinelBits

theorem answersOtherThanSentinel_of_processReading (value : Half) (crc : Byte) {convert : Half → Word}
    (hc : ∀ m, convert m ≠ sentinelBits) (s : State) :
    AnswersOtherThanSentinel s (.next (processReading value crc convert s)) := by
  obtain ⟨st, ⟨-, h⟩ | ⟨-, h⟩⟩ := processReading_status_uniform value crc s
  · exact ⟨_, ⟨st, _⟩, congrArg Host.Outcome.next (h convert), rfl, hc _⟩
  · exact ⟨_, ⟨st, _⟩, congrArg Host.Outcome.next (h convert), rfl, show (0 : Word) ≠ sentinelBits by decide⟩

theorem exec_answersOtherThanSentinel (i : Instr) (s : State) : AnswersOtherThanSentinel s (exec i s) := by
  cases i with
  | wrctl data => exact ⟨_, _, exec_wrctl data s, rfl, resultByte_ne_sentinelBits _⟩
  | cvt raw => exact ⟨_, _, exec_cvt raw s, rfl, temp32_ne_sentinelBits _ raw⟩
  | cvh raw => exact ⟨_, _, exec_cvh raw s, rfl, hum32_ne_sentinelBits raw⟩
  | chk value crc => exact answersOtherThanSentinel_of_processReading value crc resultHalf_ne_sentinelBits s
  | meat value crc => exact answersOtherThanSentinel_of_processReading value crc (temp32_ne_sentinelBits _) s
  | meah value crc => exact answersOtherThanSentinel_of_processReading value crc hum32_ne_sentinelBits s
  | mask value => exact ⟨_, _, rfl, rfl, resultHalf_ne_sentinelBits _⟩
  | crcv | ghtr | gvdd => exact ⟨_, _, rfl, rfl, resultBit_ne_sentinelBits _⟩
  | rdctl | gres | sres | shtr | hdec | henc => exact ⟨_, _, rfl, rfl, resultByte_ne_sentinelBits _⟩

/-- A request is answered with something other than the sentinel, whether or not it decodes. -/
theorem step_request_answersOtherThanSentinel {s : State} {req : Word} {rest : List HostEvent}
    (h : s.inbox = .request req :: rest) : AnswersOtherThanSentinel s (step s) := by
  match hd : decode req with
  | .error e =>
    rw [step_error h hd]
    exact ⟨_, ⟨_, _⟩, rfl, rfl, show (0 : Word) ≠ sentinelBits by decide⟩
  | .ok i =>
    rw [step_ok h hd]
    exact exec_answersOtherThanSentinel i { s with inbox := rest }

/-! ## The obligations -/

/-- Settles O57: a step that adds a response serves a request, whose one answer is an integer result, a conversion in its range,
or the zero of an error. -/
theorem sentinelNeverAnswered : Obligations.SentinelNeverAnswered := by
  intro s t hs x hx
  match h : s.inbox with
  | [] =>
    obtain rfl := Host.Outcome.next.inj ((step_idle h).symm.trans hs)
    simp at hx
  | .reset :: rest =>
    obtain rfl := Host.Outcome.next.inj ((step_reset h).symm.trans hs)
    simp at hx
  | .request req :: rest =>
    obtain ⟨t', y, ht, hy, hne⟩ := step_request_answersOtherThanSentinel h
    obtain rfl := Host.Outcome.next.inj (ht.symm.trans hs)
    obtain rfl : y = x := by simpa using hy.symm.trans hx
    exact hne

/-- Settles O47, by the arithmetic of fractions. -/
theorem exactFormulas : Obligations.ExactFormulas :=
  fun raw => ⟨fracRat_texact raw, texactRat_eq raw, fracRat_hexact raw, hexactRat_eq raw⟩

/-- Settles O48: both functions agree with the rational ones beyond the range too. -/
theorem roundingRefinesRational : Obligations.RoundingRefinesRational :=
  ⟨fun _ hd _ => rne32_eq_rne32Rat hd, fun w _ _ => ⟨f32_den_pos w, fracRat_f32 w⟩⟩

/-- Settles O49, by the two modes; at raw 0 both give R85's pattern. -/
theorem cvtConvertsTemperature : Obligations.CvtConvertsTemperature := by
  refine fun raw => ⟨fun b => by simp [decode_eq], fun s => ?_⟩
  rw [exec_cvt, temp32_eq_tempResult]

/-- Settles O50: the humidity has no more than 24 significant bits. -/
theorem cvhConvertsHumidity : Obligations.CvhConvertsHumidity := by
  refine fun raw => ⟨fun b => by simp [decode_eq], f32Rat_humRat raw, fun s => ?_⟩
  rw [exec_cvh, hum32_eq]

/-- Settles O51, by the policy with the temperature as its conversion. -/
theorem meatUnderPolicy : Obligations.MeatUnderPolicy := by
  refine fun value crc => ⟨decode_encode (.meat value crc), fun s => ?_⟩
  obtain ⟨hanswered, hwithheld⟩ := processReading_underPolicy value crc (temp32 s.config.tempNumericMode) s
  rw [exec_meat, ← maskValue_eq, ← temp32_eq_tempResult]
  exact ⟨fun h => congrArg Host.Outcome.next (hanswered h), fun hv hs => congrArg Host.Outcome.next (hwithheld hv hs)⟩

/-- Settles O52, by the policy with the humidity as its conversion. -/
theorem meahUnderPolicy : Obligations.MeahUnderPolicy := by
  refine fun value crc => ⟨decode_encode (.meah value crc), fun s => ?_⟩
  obtain ⟨hanswered, hwithheld⟩ := processReading_underPolicy value crc hum32 s
  rw [exec_meah, ← maskValue_eq, ← hum32_eq]
  exact ⟨fun h => congrArg Host.Outcome.next (hanswered h), fun hv hs => congrArg Host.Outcome.next (hwithheld hv hs)⟩

/-- Settles O53: the three operations process the reading alike and convert the value that CHK returns. -/
theorem readingIsCheckThenConvert : Obligations.ReadingIsCheckThenConvert := by
  intro value crc s
  simp only [exec_chk, exec_meat, exec_meah, exec_cvt, exec_cvh]
  obtain ⟨st, ⟨hok, h⟩ | ⟨herr, h⟩⟩ := processReading_status_uniform value crc s
  · refine ⟨st, _, _, _, congrArg _ (h resultHalf), congrArg _ (h _), congrArg _ (h hum32), fun _ => ?_,
      fun hne => absurd hok hne⟩
    rw [setWidth_resultHalf]
    exact ⟨rfl, rfl⟩
  · exact ⟨st, 0, 0, 0, congrArg _ (h resultHalf), congrArg _ (h _), congrArg _ (h hum32), fun hok => absurd hok herr,
      fun _ => ⟨rfl, rfl⟩⟩

/-- Settles O54: the distances are 12/1638400 and 29/1638400 at most. -/
theorem temperatureErrorBounds : Obligations.TemperatureErrorBounds :=
  fun raw => ⟨(abs_temp32_exact_sub_le raw).trans (by norm_num), (abs_temp32_sub_le .f32Stepwise raw).trans (by norm_num)⟩

/-- Settles O55: the temperature by its error bound, the humidity because it is exact. -/
theorem conversionsStrictlyIncrease : Obligations.ConversionsStrictlyIncrease :=
  fun mode _ _ h => ⟨f32Rat_temp32_lt mode h, f32Rat_hum32_lt h⟩

/-- Settles O56: the exact values are in range and away from zero by more than the error of a result. -/
theorem conversionResultsNormalInRange : Obligations.ConversionResultsNormalInRange := by
  intro mode raw
  obtain ⟨htlo, hthi⟩ := f32Rat_temp32_range mode raw
  obtain ⟨hhlo, hhhi⟩ := hexactRat_bounds raw
  rw [f32Rat_hum32]
  exact ⟨⟨htlo, hthi, temp32_isNormal mode raw⟩, hhlo, hhhi.le, hum32_isNormal raw⟩

end Machine
end Sys2Proof

/-! SUPPORT. The reads and writes of CTRL as numbers, and the obligations of the SYS family (43_system.md). -/

namespace Sys2Proof
namespace Machine

/-- RDCTL answers what CTRL reads as (R90). -/
theorem exec_rdctl (s : State) : exec .rdctl s = .next (afterAnswer s 0x00 (resultByte (readCtrl s))) :=
  congrArg Host.Outcome.next (respond_ok_eq _ _)

/-- A read of CTRL is bit 0 of the register, zero-extended (R17, R43). -/
theorem resultByte_readCtrl (s : State) : resultByte (readCtrl s) = BitVec.ofNat 32 (s.ctrl.toNat % 2) := by
  have hread : (readCtrl s).toNat = s.ctrl.toNat % 2 := Nat.and_one_is_mod s.ctrl.toNat
  rw [← hread, BitVec.ofNat_toNat, resultByte]

/-- Where CTRL is 0x00 or 0x01, bit 0 is all of it (R13). -/
theorem ctrl_mod_two_of_inv {s : State} (h : s.Inv) : s.ctrl.toNat % 2 = s.ctrl.toNat := by
  obtain ⟨h0 | h1, -⟩ := h
  · rw [h0]
    rfl
  · rw [h1]
    rfl

/-- WRCTL's write puts B[0] in STRICT, zero in bits 7:1, and touches nothing else (R17, R91). -/
theorem writeCtrl_wrctlNew (data : Byte) (s : State) :
    writeCtrl (wrctlNew data) s = { s with ctrl := BitVec.ofNat 8 (data.toNat % 2) } := by
  have hctrl : wrctlNew data &&& ctrlImplemented = BitVec.ofNat 8 (data.toNat % 2) := by
    rw [← toNat_wrctl_ctrl data s.ctrl, BitVec.ofNat_toNat, BitVec.setWidth_eq]
    rfl
  rw [writeCtrl, hctrl]

/-- Settles O27: the code alone selects RDCTL, and its answer is bit 0 of CTRL. -/
theorem rdctlAnswersCtrl : Obligations.RdctlAnswersCtrl := by
  refine ⟨fun a b => decode_of_decodesTo (.rdctl (opcOf_reqWord 0x00 a b)), fun s => ⟨?_, ctrl_mod_two_of_inv⟩⟩
  rw [exec_rdctl, resultByte_readCtrl]

/-- Settles O28: the answer is a read of the CTRL that the write left, which is 0 or 1 already. -/
theorem wrctlWritesStrict : Obligations.WrctlWritesStrict := by
  refine ⟨fun a data => (decode_eq_wrctl_iff _ data).mpr ⟨opcOf_reqWord 0x01 a data, (fieldB_reqWord 0x01 a data).symm⟩,
    fun data s => ?_⟩
  have hbit : (BitVec.ofNat 8 (data.toNat % 2)).toNat % 2 = data.toNat % 2 := by
    rw [BitVec.toNat_ofNat]
    omega
  rw [exec_wrctl, resultByte_readCtrl, writeCtrl_wrctlNew, hbit]
  rfl

end Machine
end Sys2Proof

/-! SUPPORT. When an answer is an error, and the obligations on the two error responses (60_exceptions.md R93, R95). -/

namespace Sys2Proof
namespace Machine

theorem stCode_statusByte_ok (crcf : Bool) : stCode (statusByte .ok crcf) = 0 := by
  cases crcf <;> decide

/-- The errors among the legal responses have ST[7:5] = 0 and R = 0 (R93, R94, R95). -/
theorem Response.legal.of_error {x : Response} (hx : x.legal) (herr : stCode x.st ≠ 0) :
    x.st.toNat / 32 = 0 ∧ x.r = 0 := by
  obtain h | h | ⟨h, hr⟩ | ⟨h, hr⟩ := hx
  · exact absurd (h ▸ rfl) herr
  · exact absurd (h ▸ rfl) herr
  · exact ⟨h ▸ rfl, hr⟩
  · exact ⟨h ▸ rfl, hr⟩

/-- An operation that STRICT does not govern is answered Ok (R95, R97). -/
theorem exec_ok_of_not_governed {i : Instr} (hi : governedByStrict i = false) (s : State) :
    ∃ t x, exec i s = .next t ∧ t.outbox = s.outbox ++ [x] ∧ stCode x.st = 0 := by
  cases i with
  | chk | meat | meah => cases hi
  | rdctl | wrctl | crcv | mask | gres | sres | ghtr | shtr | gvdd | hdec | henc | cvt | cvh =>
    exact ⟨_, _, rfl, rfl, stCode_statusByte_ok _⟩

/-- A request that is answered with an error leaves CTRL alone: WRCTL is always answered Ok. -/
theorem ctrlAfterEvent_of_error {s t : State} {req : Word} {rest : List HostEvent} {x : Response}
    (h : s.inbox = .request req :: rest) (hs : step s = .next t) (hx : t.outbox = s.outbox ++ [x])
    (herr : stCode x.st ≠ 0) : ctrlAfterEvent s.config s.ctrl (.request req) = s.ctrl := by
  refine if_neg fun hop => herr ?_
  have hd : decode req = .ok (.wrctl (fieldB req)) := (decode_eq_wrctl_iff req _).mpr ⟨hop, rfl⟩
  obtain ⟨t', y, ht, hy, hok⟩ := exec_ok_of_not_governed (i := .wrctl (fieldB req)) rfl { s with inbox := rest }
  obtain rfl : t' = t := Host.Outcome.next.inj (ht.symm.trans ((step_ok h hd).symm.trans hs))
  obtain rfl : y = x := by simpa using hy.symm.trans hx
  exact hok

/-! ## The obligations -/

/-- Settles O22: the one answer is legal, and CTRL is all that serving a request could change besides. -/
theorem errorResponseWritesNothing : Obligations.ErrorResponseWritesNothing := by
  intro s t req rest x h hs hx herr
  obtain ⟨y, hy, hlegal, -⟩ := step_request h
  obtain rfl := Host.Outcome.next.inj (hs.symm.trans hy)
  obtain rfl : y = x := by simpa [afterEvent] using hx
  obtain ⟨hst, hr⟩ := hlegal.of_error herr
  refine ⟨hst, hr, ?_⟩
  rw [afterEvent, ctrlAfterEvent_of_error h hs hx herr]

/-- Settles O24: an operation that is not governed is answered Ok; a governed one processes its reading, whose three outcomes are a
good reading, a bad one in soft-fail mode and a bad one in strict mode. -/
theorem checksumMismatchExactlyInStrict : Obligations.ChecksumMismatchExactlyInStrict := by
  intro i s
  cases hi : governedByStrict i with
  | false =>
    obtain ⟨t, x, ht, hx, hok⟩ := exec_ok_of_not_governed hi s
    exact ⟨t, x, ht, hx, by simp [hok]⟩
  | true =>
    obtain ⟨p, hp⟩ := readingOf_of_governed hi
    obtain ⟨convert, he⟩ := exec_of_governed hi hp s
    have hbad : (∃ q, readingOf i = some q ∧ validate q.1 q.2 = false) ↔ validate p.1 p.2 = false := badReading_iff hp
    have hexec : exec i s = .next (processReading p.1 p.2 convert s) := he s.ctrl
    simp only [hbad, hexec]
    cases hv : validate p.1 p.2 with
    | true =>
      rw [processReading_of_valid hv]
      exact ⟨_, ⟨0x00, _⟩, rfl, rfl, by simp [stCode]⟩
    | false =>
      cases hs : s.ctrl.getLsbD 0 with
      | false =>
        rw [processReading_of_soft hv hs]
        exact ⟨_, ⟨0x10, _⟩, rfl, rfl, by simp [stCode]⟩
      | true =>
        rw [processReading_of_strict hv hs]
        exact ⟨_, ⟨0x18, 0⟩, rfl, rfl, by simp [stCode]⟩

end Machine
end Sys2Proof

/-! SUPPORT. The reset value of CTRL as a number, and the obligation on the reset event (70_reset_and_hazards.md R109). -/

namespace Sys2Proof
namespace Machine

/-- STRICT_AT_RESET is bit 0 of the reset value, and the other bits are zero (R24, R109). -/
theorem ctrlAtReset_eq_ofNat (c : Config) : ctrlAtReset c = BitVec.ofNat 8 (if c.strictAtReset then 1 else 0) := by
  unfold ctrlAtReset
  cases c.strictAtReset <;> rfl

/-- Settles O11: the step takes the event and applies the reset, which writes CTRL alone. -/
theorem resetEventSetsCtrlOnly : Obligations.ResetEventSetsCtrlOnly := by
  intro s rest h
  rw [step_reset h, applyReset, ctrlAtReset_eq_ofNat]

end Machine
end Sys2Proof
